-- ==== Sys2Proof/Word.lean ====
section
/-! DEFINITION. The widths of the spec: command words and assembled Words are 32 bits (R70, R15), dimensions and
wValues 16 bits (R11, R50), bytes 8 bits (R7), bilevel values 1 bit (R40). All arithmetic is unsigned (R5). -/

namespace Sys2Proof

/-- A 32-bit value: a command word `cw` (R70) or a Word of the wire buffer (R9, R15). -/
abbrev Word := BitVec 32

/-- A 16-bit value: a dimension (R11, R12), a raster coordinate (R13, R14), a wValue or wIndex (R50). -/
abbrev Half := BitVec 16

/-- A byte (R7): an intensity, a byte of the accumulator, a byte of a bulk payload. -/
abbrev Byte := BitVec 8

/-- A bilevel value, 1 meaning "on" (R40), or any other one-bit operand. -/
abbrev Bit := BitVec 1

end Sys2Proof
end

