-- ==== Sys2Proof/Syntax.lean ====
section
/-! DEFINITION. The commands of the block: one constructor per row of spec/opcode_table.json (R72), each operand at the
width of R71. -/

namespace Sys2Proof

/-- A command (R72). The operand widths are those of R71, so every value of the type is a legal command. -/
inductive Instr where
  /-- `OPEN` (R150). -/
  | openDev
  /-- `SET_W w` (R108). -/
  | setW (w : Half)
  /-- `SET_H h` (R109). -/
  | setH (h : Half)
  /-- `PIX8 p` (R110). -/
  | pix8 (p : Byte)
  /-- `PIX1 b` (R111). -/
  | pix1 (b : Bit)
  /-- `BYTE d` (R133). -/
  | byte (d : Byte)
  /-- `FLUSH` (R134). -/
  | flush
  /-- `RESET_WRITEPTR` (R151). -/
  | resetWriteptr
  /-- `PANEL_ONOFF v` (R152). -/
  | panelOnoff (v : Bit)
  /-- `PANEL_BRIGHTNESS n` (R153). -/
  | panelBrightness (n : Half)
  deriving DecidableEq, Repr

/-- The mnemonic of a command, as the opcode map spells it (R72). -/
def Instr.mnemonic : Instr → String
  | .openDev => "OPEN"
  | .setW _ => "SET_W"
  | .setH _ => "SET_H"
  | .pix8 _ => "PIX8"
  | .pix1 _ => "PIX1"
  | .byte _ => "BYTE"
  | .flush => "FLUSH"
  | .resetWriteptr => "RESET_WRITEPTR"
  | .panelOnoff _ => "PANEL_ONOFF"
  | .panelBrightness _ => "PANEL_BRIGHTNESS"

end Sys2Proof
end

