-- ==== Sys2Proof/WellFormed.lean ====
section
/-! DEFINITION. Well-formedness. A command of `Instr` is well formed by its type: the operand widths are R71's. What
can be ill formed is a command word; this file states R74 on its three fields, independently of the decoder. -/

namespace Sys2Proof

/-- Every command is well formed: its operands have exactly the ranges of R71 (0 is a legal operand of `SET_W` and
`SET_H`; it raises when executed). -/
def Instr.wellFormed : Instr → Bool
  | .openDev => true
  | .setW _ => true
  | .setH _ => true
  | .pix8 _ => true
  | .pix1 _ => true
  | .byte _ => true
  | .flush => true
  | .resetWriteptr => true
  | .panelOnoff _ => true
  | .panelBrightness _ => true

/-- The three fields of a command word (R70). -/
structure RawCommand where
  /-- `op`, bits 31:24, the major opcode. -/
  op : Byte
  /-- `req`, bits 23:16, the control request number when `op` is 0x40. -/
  req : Byte
  /-- `arg`, bits 15:0, the operand. -/
  arg : Half
  deriving DecidableEq, Repr

/-- The fields of a legal command word: one line per command, its "unused bits that must be 0" as R71 lists them. False
of every field triple R74 calls reserved. -/
def RawCommand.wellFormed (c : RawCommand) : Bool :=
  c.op == 0x01 && c.req == 0 && c.arg == 0 ||
  c.op == 0x10 && c.req == 0 ||
  c.op == 0x11 && c.req == 0 ||
  c.op == 0x20 && c.req == 0 && decide (c.arg.toNat < 256) ||
  c.op == 0x21 && c.req == 0 && decide (c.arg.toNat < 2) ||
  c.op == 0x30 && c.req == 0 && decide (c.arg.toNat < 256) ||
  c.op == 0x31 && c.req == 0 && c.arg == 0 ||
  c.op == 0x40 && c.req == 0x00 && c.arg == 0 ||
  c.op == 0x40 && c.req == 0x01 && decide (c.arg.toNat < 2) ||
  c.op == 0x40 && c.req == 0x02

end Sys2Proof
end

