-- ==== Sys2Proof/Decode.lean ====
section
/-! DEFINITION. The command word (R70 to R74): its fields, the decoder, total on all 2^32 words, and after it the
encoder and the opcode map written from the table of R72. -/

namespace Sys2Proof

/-- What a command word decodes to (R73): a command, or the reserved word itself. -/
inductive Decoded where
  | cmd (i : Instr)
  | reserved (cw : Word)
  deriving DecidableEq, Repr

/-- `op`, bits 31:24 of a command word (R70). -/
def opField (cw : Word) : Byte := cw.extractLsb' 24 8

/-- `req`, bits 23:16 of a command word (R70). -/
def reqField (cw : Word) : Byte := cw.extractLsb' 16 8

/-- `arg`, bits 15:0 of a command word (R70). -/
def argField (cw : Word) : Half := cw.extractLsb' 0 16

/-- The fields of a command word (R70). -/
def rawFields (cw : Word) : RawCommand := ⟨opField cw, reqField cw, argField cw⟩

/-- `arg[7:0]`, the operand of `PIX8` and `BYTE` (R71). -/
def argByte (arg : Half) : Byte := arg.extractLsb' 0 8

/-- `arg[0]`, the operand of `PIX1` and `PANEL_ONOFF` (R71). -/
def argBit (arg : Half) : Bit := arg.extractLsb' 0 1

/-- `Decode` (R73): total, each line of the rule one test; every other word is reserved (R74). -/
def decode (cw : Word) : Decoded :=
  let op := opField cw
  let req := reqField cw
  let arg := argField cw
  if op = 0x01 ∧ req = 0 ∧ arg = 0 then .cmd .openDev
  else if op = 0x10 ∧ req = 0 then .cmd (.setW arg)
  else if op = 0x11 ∧ req = 0 then .cmd (.setH arg)
  else if op = 0x20 ∧ req = 0 ∧ arg.extractLsb' 8 8 = 0 then .cmd (.pix8 (argByte arg))
  else if op = 0x21 ∧ req = 0 ∧ arg.extractLsb' 1 15 = 0 then .cmd (.pix1 (argBit arg))
  else if op = 0x30 ∧ req = 0 ∧ arg.extractLsb' 8 8 = 0 then .cmd (.byte (argByte arg))
  else if op = 0x31 ∧ req = 0 ∧ arg = 0 then .cmd .flush
  else if op = 0x40 ∧ req = 0x00 ∧ arg = 0 then .cmd .resetWriteptr
  else if op = 0x40 ∧ req = 0x01 ∧ arg.extractLsb' 1 15 = 0 then .cmd (.panelOnoff (argBit arg))
  else if op = 0x40 ∧ req = 0x02 then .cmd (.panelBrightness arg)
  else .reserved cw

/-- The command of an instruction `nbits` wide whose bits are `w`, as spec/opcode_table.json numbers them: one 32-bit
word, presented whole, so there is no byte order (R44, R70; log entry 9). `none` where the decoder answers reserved. -/
def decodeTableWord (nbits w : Nat) : Option Instr :=
  match decode (BitVec.ofNat 32 (w % 2 ^ nbits)) with
  | .cmd i => some i
  | .reserved _ => none

/-! ### The encoder -/

/-- A command word from its three fields (R70). -/
def packFields (op req : Byte) (arg : Half) : Word :=
  op.setWidth 32 <<< 24 ||| req.setWidth 32 <<< 16 ||| arg.setWidth 32

/-- The command word of a command: the op, req and arg columns of R72. -/
def encode : Instr → Word
  | .openDev => packFields 0x01 0x00 0x0000
  | .setW w => packFields 0x10 0x00 w
  | .setH h => packFields 0x11 0x00 h
  | .pix8 p => packFields 0x20 0x00 (p.setWidth 16)
  | .pix1 b => packFields 0x21 0x00 (b.setWidth 16)
  | .byte d => packFields 0x30 0x00 (d.setWidth 16)
  | .flush => packFields 0x31 0x00 0x0000
  | .resetWriteptr => packFields 0x40 0x00 0x0000
  | .panelOnoff v => packFields 0x40 0x01 (v.setWidth 16)
  | .panelBrightness n => packFields 0x40 0x02 n

/-! ### The opcode map -/

/-- One row of the opcode map (R72). -/
structure OpcodeRow where
  mnemonic : String
  /-- The `match` column. -/
  selects : Word
  mask : Word
  deriving DecidableEq, Repr

/-- A word selects a row if and only if `cw & mask = match` (R72). -/
def OpcodeRow.hit (r : OpcodeRow) (cw : Word) : Prop := cw &&& r.mask = r.selects

/-- The `match` and `mask` columns of R72, in its order. -/
def opcodeRows : List OpcodeRow :=
  [⟨"OPEN", 0x01000000, 0xFFFFFFFF⟩,
   ⟨"SET_W", 0x10000000, 0xFFFF0000⟩,
   ⟨"SET_H", 0x11000000, 0xFFFF0000⟩,
   ⟨"PIX8", 0x20000000, 0xFFFFFF00⟩,
   ⟨"PIX1", 0x21000000, 0xFFFFFFFE⟩,
   ⟨"BYTE", 0x30000000, 0xFFFFFF00⟩,
   ⟨"FLUSH", 0x31000000, 0xFFFFFFFF⟩,
   ⟨"RESET_WRITEPTR", 0x40000000, 0xFFFFFFFF⟩,
   ⟨"PANEL_ONOFF", 0x40010000, 0xFFFFFFFE⟩,
   ⟨"PANEL_BRIGHTNESS", 0x40020000, 0xFFFF0000⟩]

end Sys2Proof
end

