-- ==== Sys2Proof/Config.lean ====
section
/-! DEFINITION. What is fixed for the machine (R4), the records the block exchanges with its environment (R50, R186),
and the open parameters, which are constants without a body: nothing can be proved of their value. -/

namespace Sys2Proof

/-- A transaction (R50): the only things the block ever does to the device. -/
inductive Txn where
  /-- A USB control transfer with no data stage (R50, R75). -/
  | ctrl (bmRequestType : Byte) (bRequest : Byte) (wValue : Half) (wIndex : Half)
  /-- A USB bulk OUT transfer (R50, R76). -/
  | bulk (ep : Byte) (bytes : List Byte)
  deriving DecidableEq, Repr

/-- The environment's answer to a transaction (R186). -/
inductive TxOutcome where
  /-- The device has taken the whole transaction. -/
  | ok
  /-- The transport reports an error. -/
  | fail
  /-- The transport never returns. -/
  | stall
  deriving DecidableEq, Repr, Inhabited

/-- The environment's answer to `OPEN` (R150, R186). -/
inductive OpenOutcome where
  | ok
  /-- No matching VID:PID enumerated (R180). -/
  | notFound
  | fail
  | stall
  deriving DecidableEq, Repr, Inhabited

/-- One entry of `out`: a transaction and its outcome (R17). -/
abbrev Event := Txn × TxOutcome

/-- The wire formats the source names (R3). -/
inductive Fmt where
  /-- Padded, word-reversed: the one the block implements. -/
  | fmtA
  /-- Row-packed without padding: its bit order is not in the source (N4). -/
  | fmtB
  deriving DecidableEq, Repr

/-- A panel height the parameter `PANEL_H` may name: 1 to 65535 (R4). -/
abbrev PanelHeight := Subtype fun h : Half => h ≠ 0

/-- A non-zero exit status: `positive n` is n + 1, `negative n` is -(n + 1) (R4, `EXIT_CODE`). -/
inductive ExitCode where
  | positive (n : Nat)
  | negative (n : Nat)
  deriving DecidableEq, Repr, Inhabited

/-- The number an exit status stands for. -/
def ExitCode.toInt : ExitCode → Int
  | .positive n => n + 1
  | .negative n => -(n + 1)

namespace Config

/-! ### Constants (R4) -/

/-- `WORD_BITS`. -/
def wordBits : Nat := 32
/-- `WORD_BYTES`. -/
def wordBytes : Nat := 4
/-- `THRESH`: a pixel is on iff its intensity is strictly greater. -/
def thresh : Byte := 127
/-- `PIX_BITS`, the width of an intensity. -/
def pixBits : Nat := 8
/-- `DIM_BITS`, the width of `W` and `H`. -/
def dimBits : Nat := 16
/-- `PKT_MAX`: the largest bulk payload, and the chunk size. -/
def pktMax : Nat := 64
/-- `EP_BULK_OUT` (R49, R76). -/
def epBulkOut : Byte := 0x01
/-- `BM_REQUEST_TYPE`: host-to-device, vendor, device-recipient (R75). -/
def bmRequestType : Byte := 0x40
/-- `REQ_RESET_WRITEPTR`. -/
def reqResetWriteptr : Byte := 0
/-- `REQ_PANEL_ONOFF`. -/
def reqPanelOnoff : Byte := 1
/-- `REQ_PANEL_BRIGHTNESS`. -/
def reqPanelBrightness : Byte := 2
/-- `W_INDEX` of every control transfer (the spec's decision D15). -/
def wIndex : Half := 0
/-- `W_LENGTH` of every control transfer: no data stage (R4, R51). -/
def wLength : Half := 0
/-- `RESET_WVALUE` (the spec's decision D15). -/
def resetWValue : Half := 0
/-- `FMT`: the wire format of the block (R3, R4). -/
def fmt : Fmt := .fmtA

/-! ### Open parameters: no body, so a claim holds whatever they are (R4, 92_eei_decisions.md) -/

/-- `PANEL_H`: `none`, or the height `SET_H` must match (R4, R109; log entry 6). -/
opaque panelH : Option PanelHeight

/-- `DEVICE_IDS`: the (VID, PID) pairs of the external discovery behind `OPEN` (R4, U12; log entry 7). PRESUMED: that a VID
and a PID are 16 bits each is the USB standard's width; the spec gives none (log entry 23). Unsafe only for a claim about
ids, which none makes. -/
opaque deviceIds : List (Half × Half)

/-- `EXIT_CODE`: what the host process returns after a fault (R4, U13; log entry 7). -/
opaque exitCode : ExitCode

/-- The outcome oracle of R186 for transactions: a free value for each history and transaction, used where the state
holds no settled answer (log entry 3). -/
opaque txOutcome : List Event → Txn → TxOutcome

/-- The outcome oracle of R186 for `OPEN`, shaped by the device ids that discovery looks for (R150; log entry 3). -/
opaque openOutcome : List (Half × Half) → List Event → OpenOutcome

end Config

end Sys2Proof
end

