-- ==== Sys2Proof/Machine/State.lean ====
section
/-! DEFINITION. The state of the block (R10), its exceptions (R180), and the state after reset (R27). -/

namespace Sys2Proof.Machine

/-- The session state (R19). -/
inductive Sess where
  /-- No device handle. -/
  | closed
  /-- The device is claimed and configured. -/
  | configured
  /-- A control transaction has just set the device's write pointer to 0. -/
  | reset
  /-- At least one bulk transaction has followed. -/
  | streaming
  deriving DecidableEq, Repr

/-- What the block asks of the environment: `OPEN`'s question or a transaction (R186). -/
inductive Request where
  | openDevice
  | transaction (t : Txn)
  deriving DecidableEq, Repr

/-- The six reasons of a precondition violation (R180, R181). -/
inductive Reason where
  | emptyImage
  | heightMismatch
  | midFrameReconfig
  | notOpen
  | alreadyOpen
  /-- Records the command word (R181, R182; log entry 11). -/
  | reservedCommand (cw : Word)
  deriving DecidableEq, Repr

/-- The exceptions the block raises into its fault latch (R180). -/
inductive Exc where
  | deviceNotFound
  | preconditionViolation (r : Reason)
  /-- The transaction that failed, or `OPEN`. -/
  | transportFailure (what : Request)
  deriving DecidableEq, Repr

/-- What the host does next at the command port (R18, R195): present a command word, or reset the block. -/
inductive HostInput where
  | word (cw : Word)
  | reset
  deriving DecidableEq, Repr

/-- Why the machine has no next state. The exceptions of R180 are not here: they are taken, into the latch `fault` of
the state. -/
inductive Fault where
  /-- Raised by every command and by `step` when the block waits in a transaction (or `OPEN`) that never returns: "no
  later step exists" (R52, R186, U4; log entry 4). Safe: nothing can be proved of a step that does not happen. -/
  | stalled
  deriving DecidableEq, Repr

/-- What the model has no meaning for. -/
inductive Refusal where
  /-- Raised by an arm of `exec` whose command has no meaning yet; no arm does. Safe. -/
  | notModelled (mnemonic : String)
  /-- Raised by `encFrameIn` when asked for `FMT_B`, whose bit order is not in the source (R3, R115, U1; log entry 12).
  No command asks for it. Safe. -/
  | wireFormatB
  deriving DecidableEq, Repr

/-- The complete state of the block (R10), and after it the model's own fields, which R30 calls parameters of the step
relation. `none` in a shadow register is the spec's `unknown`. -/
structure State where
  /-- Image width in pixels; 0 is "not configured" (R11). -/
  W : Half
  /-- Image height in pixels; 0 is "not configured" (R12). -/
  H : Half
  /-- Column of the next pixel (R13). -/
  rx : Half
  /-- Row of the next pixel (R14). -/
  ry : Half
  /-- The Word under assembly, before bit reversal (R15). -/
  acc : Word
  /-- The accumulator, head first (R16; log entry 14). -/
  fifo : List Byte
  /-- Session state (R19). -/
  sess : Sess
  /-- The sticky fault latch (R20). -/
  fault : Option Exc
  /-- Shadow of the device's write pointer (R22). -/
  wptr : Option Nat
  /-- Shadow of the panel output switch (R23). -/
  panelOn : Option Bit
  /-- Shadow of the brightness level (R24). -/
  bright : Option Half
  /-- Every transaction since reset with its outcome, oldest first (R17). -/
  out : List Event
  /-- The model's own: the request whose stall the block is waiting in for ever (R186; log entry 4). -/
  hung : Option Request
  /-- The model's own: what the host does from here on, in order (R18, R30; log entry 1). -/
  host : List HostInput
  /-- The model's own: the answers the environment has settled for the next transactions (R30, R186; log entry 3). -/
  txAnswers : List TxOutcome
  /-- The model's own: the answers it has settled for the next `OPEN`s (R30, R150; log entry 3). -/
  openAnswers : List OpenOutcome
  /-- The parameter `PANEL_H` of this machine; no command writes it (R4, R109; log entry 6). -/
  panelH : Option Half
  deriving DecidableEq, Repr

/-- The machine right after reset: the table of R27, and for the model's own fields no input, no settled answer, and
the open parameter as it is (log entries 1, 3, 4, 6). -/
def State.reset : State where
  W := 0
  H := 0
  rx := 0
  ry := 0
  acc := 0
  fifo := []
  sess := .closed
  fault := none
  wptr := none
  panelOn := none
  bright := none
  out := []
  hung := none
  host := []
  txAnswers := []
  openAnswers := []
  panelH := Config.panelH.map Subtype.val

end Sys2Proof.Machine
end

