-- ==== Sys2Proof/Machine/Flags.lean ====
section
/-! DEFINITION. The block has no condition codes; the predicates of R21 over the state, and the two of the raster step
(R112). -/

namespace Sys2Proof.Machine

/-- `configured` (R21): both dimensions have been set. -/
abbrev State.configured (s : State) : Prop := 0 < s.W ∧ 0 < s.H

/-- `frame_start` (R21). -/
abbrev State.frameStart (s : State) : Prop := s.rx = 0 ∧ s.ry = 0

/-- `mid_frame` (R21). -/
abbrev State.midFrame (s : State) : Prop := ¬ s.frameStart

/-- Neither halted (R188) nor stalled (R186): the block takes the next command. -/
abbrev State.running (s : State) : Prop := s.hung = none ∧ s.fault = none

/-- `k`, the bit position of the next pixel in its Word: `rx mod 32 = rx[4:0]` (R112, R116). -/
def State.lane (s : State) : Nat := s.rx.toNat % Config.wordBits

/-- `last`: the next pixel is the last of its row (R112). -/
abbrev State.lastColumn (s : State) : Prop := s.rx = s.W - 1

/-- The next pixel completes its Word, full or padded: `k = 31 or last` (R112). -/
abbrev State.completesWord (s : State) : Prop := s.lane = 31 ∨ s.lastColumn

end Sys2Proof.Machine
end

