-- ==== Sys2Proof/Machine/Operands.lean ====
section
/-! DEFINITION. The operand forms: a pixel as an intensity or as a bilevel value (R40, R100), and the widening of an
operand into a Word or a wValue (R71). -/

namespace Sys2Proof.Machine

/-- `Thresh` (R100): on if and only if the intensity, unsigned, is strictly greater than 127. -/
def threshold (p : Byte) : Bit := if Config.thresh < p then 1 else 0

/-- `zext_32(b) << k`, the pixel's contribution to the Word under assembly (R112). -/
def pixelMask (b : Bit) (k : Nat) : Word := b.setWidth 32 <<< k

/-- `zext_16(v)`, the wValue of `PANEL_ONOFF` (R152). -/
def onoffValue (v : Bit) : Half := v.setWidth 16

/-- `val[0]`, what the shadow `panel_on` keeps of a wValue (R159). -/
def onoffShadow (val : Half) : Bit := val.extractLsb' 0 1

end Sys2Proof.Machine
end

