-- ==== Sys2Proof/Machine/Wire.lean ====
section
/-! DEFINITION. The pure functions of the source: row segmentation, word assembly, bit reversal, serialisation, row and
frame encoding (R100 to R107), the place of a pixel in the wire buffer (R43), the packet sequence of a buffer (R132),
and the setup packet of a control transfer (R51). -/

namespace Sys2Proof.Machine

/-- The `n`-bit value whose bit i is `f i`. -/
def ofBits (f : Nat → Bool) : (n : Nat) → BitVec n
  | 0 => 0#0
  | n + 1 => BitVec.cons (f n) (ofBits f n)

/-- `NB` (R101): the number of row blocks of a row of `w` columns. -/
def nb (w : Nat) : Nat := (w + 31) / 32

/-- `Asm` (R102): lane dx of row block j is the pixel at column 32 j + dx, and 0 beyond the row. -/
def asm (row : List Bit) (j : Nat) : Word := ofBits (fun dx => row.getD (32 * j + dx) 0 == 1) 32

/-- `BitRev32` (R103): bit i is bit 31 - i, over the full 32 bits. -/
def bitRev32 (a : Word) : Word := ofBits (fun i => a.getLsbD (31 - i)) 32

/-- `SerLE32` (R104): the four bytes of a Word, least significant first. -/
def serLE32 (v : Word) : List Byte :=
  [v.extractLsb' 0 8, v.extractLsb' 8 8, v.extractLsb' 16 8, v.extractLsb' 24 8]

/-- The four wire bytes of an assembled Word: reversal, then serialisation (R105). -/
def wordBytes (a : Word) : List Byte := serLE32 (bitRev32 a)

/-- `EncRow` (R105): the row's Words left to right. -/
def encRow (row : List Bit) : List Byte := (List.range (nb row.length)).flatMap fun j => wordBytes (asm row j)

/-- A pixel value of an image: an intensity or a bilevel value (R40). -/
inductive Pixel where
  | intensity (p : Byte)
  | bilevel (b : Bit)
  deriving DecidableEq, Repr

/-- `B` of R106: `Thresh` of an intensity, the identity on a bilevel value. -/
def Pixel.bit : Pixel → Bit
  | .intensity p => threshold p
  | .bilevel b => b

/-- An image as its rows, row 0 first, each from column 0 (R40, R41; log entry 19). -/
abbrev Image := List (List Pixel)

/-- A W by H image, both dimensions above 0 (R40). -/
def Image.isSize (img : Image) (w h : Nat) : Prop :=
  0 < w ∧ 0 < h ∧ img.length = h ∧ ∀ row ∈ img, row.length = w

/-- `Pix(img, x, y)` (R41). -/
def Image.pix (img : Image) (x y : Nat) : Option Pixel := (img[y]?).bind fun row => row[x]?

/-- `EncFrame` (R106): the rows' bytes, row 0 first. DESIGN CHOICE: the rule does not define it for W = 0 or H = 0; this
total function gives `[]` there, and claims ask for `isSize` of the image whose rows are encoded (log entry 25). Unsafe
for a claim about an empty image. -/
def encFrame (img : Image) : List Byte := img.flatMap fun row => encRow (row.map Pixel.bit)

/-- The encoder with the format as an argument: `FMT_B` is refused by name (R3, R115; log entry 12). An image with W = 0 or
H = 0 has `encFrame`'s `[]` here too, the model's choice (log entry 25). -/
def encFrameIn (f : Fmt) (img : Image) : Except Refusal (List Byte) :=
  match f with
  | .fmtA => .ok (encFrame img)
  | .fmtB => .error .wireFormatB

/-- The length of `FMT_B`'s buffer, the only thing the source says of it (R3, R115). -/
def fmtBLength (w h : Nat) : Nat := h * ((w + 7) / 8)

/-- Byte offset of the pixel at (x, y) in the wire buffer of an image of width w (R43). -/
def pixelOffset (w x y : Nat) : Nat := 4 * (y * nb w + x / 32) + (31 - x % 32) / 8

/-- Bit of that byte which holds the pixel (R43). -/
def pixelBitIndex (x : Nat) : Nat := (31 - x % 32) % 8

/-- The column whose pixel bit t of the byte at offset o holds (R43, the converse). -/
def columnAt (w o t : Nat) : Nat := 32 * (o / 4 % nb w) + 31 - 8 * (o % 4) - t

/-- The row of the byte at offset o (R43, the converse). -/
def rowAt (w o : Nat) : Nat := o / 4 / nb w

/-- The packets of a buffer, at most `n` of them. -/
def chunkLoop : Nat → List Byte → List (List Byte)
  | 0, _ => []
  | n + 1, buf => if buf = [] then [] else buf.take Config.pktMax :: chunkLoop n (buf.drop Config.pktMax)

/-- `Chunk` (R132): the packet sequence of a whole buffer. Each turn takes at least one byte, so the buffer's length
bounds the number of turns. -/
def chunk (buf : List Byte) : List (List Byte) := chunkLoop buf.length buf

/-- The 8-byte setup packet of a control transfer; `none` of a bulk transfer (R51, marked there as general knowledge;
log entry 15). -/
def setupPacket : Txn → Option (List Byte)
  | .ctrl bm req val idx =>
    some [bm, req, val.extractLsb' 0 8, val.extractLsb' 8 8, idx.extractLsb' 0 8, idx.extractLsb' 8 8,
      Config.wLength.extractLsb' 0 8, Config.wLength.extractLsb' 8 8]
  | .bulk _ _ => none

end Sys2Proof.Machine
end

