-- ==== Sys2Proof/Machine/Ops.lean ====
section
/-! DEFINITION. The shared operations: taking an exception (R187), performing a transaction (R52, R159), the chunking
loop (R131), the body of the control commands (R155), the raster step (R112), and the frame every command runs in
(R188, R186). There is no return from an exception (R189); the only way out is reset (R210). -/

namespace Sys2Proof.Machine

/-! ### Taking an exception -/

/-- `raise e` (R187): the latch takes the first exception and keeps it; nothing else changes. -/
def State.raise (e : Exc) (s : State) : State :=
  match s.fault with
  | none => { s with fault := some e }
  | some _ => s

/-- `raise PreconditionViolation(r)`. -/
def State.violate (r : Reason) (s : State) : State := s.raise (.preconditionViolation r)

/-- The frame of every command: in a stalled block no step exists (R186); in a halted block the command completes at
once and does nothing (R188); else it has its effect. -/
def command (body : State → State) (s : State) : Host.Outcome State Fault Refusal :=
  match s.hung with
  | some _ => .fault .stalled
  | none =>
    match s.fault with
    | some _ => .next s
    | none => .next (body s)

/-- `require sess != Closed else raise PreconditionViolation(NotOpen)`, before the rest of a command. -/
def requireOpen (body : State → State) (s : State) : State :=
  if s.sess = .closed then s.violate .notOpen else body s

/-! ### Transactions -/

/-- The outcome the environment gives transaction `t` (R186): the next answer it has settled, else the oracle's. -/
def State.txOutcome (s : State) (t : Txn) : TxOutcome :=
  match s.txAnswers with
  | o :: _ => o
  | [] => Config.txOutcome s.out t

/-- The outcome the environment gives `OPEN` (R150, R186). -/
def State.openOutcome (s : State) : OpenOutcome :=
  match s.openAnswers with
  | o :: _ => o
  | [] => Config.openOutcome Config.deviceIds s.out

/-- The write pointer's shadow after transaction `t` with outcome `o` (R22, R159). -/
def wptrAfter (t : Txn) (o : TxOutcome) (p : Option Nat) : Option Nat :=
  match o, t with
  | .ok, .ctrl _ _ _ _ => some 0
  | .ok, .bulk _ b => p.map (· + b.length)
  | .fail, _ => none
  | .stall, _ => p

/-- The panel output's shadow after transaction `t` with outcome `o` (R23, R159). -/
def panelOnAfter (t : Txn) (o : TxOutcome) (p : Option Bit) : Option Bit :=
  match o, t with
  | .ok, .ctrl _ req val _ => if req = Config.reqPanelOnoff then some (onoffShadow val) else p
  | .fail, .ctrl _ req _ _ => if req = Config.reqPanelOnoff then none else p
  | _, _ => p

/-- The brightness shadow after transaction `t` with outcome `o` (R24, R159). -/
def brightAfter (t : Txn) (o : TxOutcome) (p : Option Half) : Option Half :=
  match o, t with
  | .ok, .ctrl _ req val _ => if req = Config.reqPanelBrightness then some val else p
  | .fail, .ctrl _ req _ _ => if req = Config.reqPanelBrightness then none else p
  | _, _ => p

/-- The session state after transaction `t` with outcome `o` (R19, R158). -/
def sessAfter (t : Txn) (o : TxOutcome) (x : Sess) : Sess :=
  match o, t with
  | .ok, .ctrl _ _ _ _ => .reset
  | .ok, .bulk _ _ => .streaming
  | _, _ => x

/-- `Update(t, o)` (R159). -/
def State.update (t : Txn) (o : TxOutcome) (s : State) : State :=
  { s with
    wptr := wptrAfter t o s.wptr
    panelOn := panelOnAfter t o s.panelOn
    bright := brightAfter t o s.bright
    sess := sessAfter t o s.sess }

/-- The transaction is recorded with its outcome, and the answer is used up (R17, R52). -/
def State.record (t : Txn) (o : TxOutcome) (s : State) : State :=
  { s with out := s.out ++ [(t, o)], txAnswers := s.txAnswers.tail }

/-- `Emit(t)` (R52): the outcome and the state after it. A caller goes on only when the outcome is `ok`: `fail` has
raised, `stall` never returns. -/
def emit (t : Txn) (s : State) : TxOutcome × State :=
  let o := s.txOutcome t
  let s₁ := s.record t o
  match o with
  | .stall => (o, { s₁ with hung := some (.transaction t) })
  | .fail => (o, (s₁.update t o).raise (.transportFailure (.transaction t)))
  | .ok => (o, s₁.update t o)

/-! ### The framer's loop -/

/-- The first 64 bytes of the accumulator as one bulk transfer (R131). -/
def State.packet (s : State) : Txn := .bulk Config.epBulkOut (s.fifo.take Config.pktMax)

/-- At most `n` turns of `Drain`'s loop (R131). -/
def drainLoop : Nat → State → State
  | 0, s => s
  | n + 1, s =>
    if s.fifo.length < Config.pktMax then s
    else
      match emit s.packet s with
      | (.ok, t) => drainLoop n { t with fifo := t.fifo.drop Config.pktMax }
      | (_, t) => t

/-- `Drain` (R131). Each turn takes 64 bytes, so the loop has at most |fifo| / 64 turns (log entry 16). -/
def drain (s : State) : State := drainLoop (s.fifo.length / Config.pktMax) s

/-- Bytes enter the accumulator at its tail (R16). -/
def State.append (bs : List Byte) (s : State) : State := { s with fifo := s.fifo ++ bs }

/-! ### The control transfer -/

/-- The control transfers the block can emit (R75). -/
def ctrlTxn (req : Byte) (val : Half) : Txn := .ctrl Config.bmRequestType req val Config.wIndex

/-- `Control(req, val)` (R155). -/
def controlTransfer (req : Byte) (val : Half) : State → State := requireOpen fun s => (emit (ctrlTxn req val) s).2

/-! ### The rasterizer -/

/-- The Word under assembly with the pixel's bit in it: `acc | (zext_32(b) << k)` (R112). -/
def State.assembled (b : Bit) (s : State) : Word := s.acc ||| pixelMask b s.lane

/-- The raster position after a pixel (R112): columns left to right, rows top to bottom, then the next frame. -/
def State.advance (s : State) : State :=
  if s.lastColumn then { s with rx := 0, ry := if s.ry = s.H - 1 then 0 else s.ry + 1 }
  else { s with rx := s.rx + 1 }

/-- The Word under assembly takes the pixel; a complete Word leaves for the accumulator, reversed and serialised
(R112). -/
def State.assemble (b : Bit) (s : State) : State :=
  if s.completesWord then { s with acc := 0, fifo := s.fifo ++ wordBytes (s.assembled b) }
  else { s with acc := s.assembled b }

/-- `RasterStep` (R112), the common step of `PIX8` and `PIX1`. -/
def rasterStep (b : Bit) : State → State :=
  requireOpen fun s => if s.configured then drain (s.assemble b).advance else s.violate .emptyImage

end Sys2Proof.Machine
end

