-- ==== Sys2Proof/Machine/Dcp.lean ====
section
/-! DEFINITION. The commands of DCP, the device control protocol: `OPEN` and the three control commands (R150 to
R153). -/

namespace Sys2Proof.Machine

/-- The pseudocode of `OPEN` (R150). It appends nothing to `out`. -/
def openEffect (s : State) : State :=
  if s.sess = .closed then
    let s₁ := { s with openAnswers := s.openAnswers.tail }
    match s.openOutcome with
    | .stall => { s₁ with hung := some .openDevice }
    | .notFound => s₁.raise .deviceNotFound
    | .fail => s₁.raise (.transportFailure .openDevice)
    | .ok => { s₁ with sess := .configured }
  else s.violate .alreadyOpen

/-- The pseudocode of `RESET_WRITEPTR` (R151). -/
def resetWriteptrEffect : State → State := controlTransfer Config.reqResetWriteptr Config.resetWValue

/-- The pseudocode of `PANEL_ONOFF` (R152). -/
def panelOnoffEffect (v : Bit) : State → State := controlTransfer Config.reqPanelOnoff (onoffValue v)

/-- The pseudocode of `PANEL_BRIGHTNESS` (R153). -/
def panelBrightnessEffect (n : Half) : State → State := controlTransfer Config.reqPanelBrightness n

/-- `OPEN` (R150). -/
def execOpen : State → Host.Outcome State Fault Refusal := command openEffect

/-- `RESET_WRITEPTR` (R151). -/
def execResetWriteptr : State → Host.Outcome State Fault Refusal := command resetWriteptrEffect

/-- `PANEL_ONOFF v` (R152). -/
def execPanelOnoff (v : Bit) : State → Host.Outcome State Fault Refusal := command (panelOnoffEffect v)

/-- `PANEL_BRIGHTNESS n` (R153). -/
def execPanelBrightness (n : Half) : State → Host.Outcome State Fault Refusal := command (panelBrightnessEffect n)

end Sys2Proof.Machine
end

