-- ==== Sys2Proof/Machine/Enc.lean ====
section
/-! DEFINITION. The commands of ENC, the bilevel row encoder: `SET_W`, `SET_H`, `PIX8`, `PIX1` (R108 to R112). -/

namespace Sys2Proof.Machine

/-- The pseudocode of `SET_W` (R108). -/
def setWEffect (w : Half) (s : State) : State :=
  if s.midFrame then s.violate .midFrameReconfig
  else if w = 0 then s.violate .emptyImage
  else { s with W := w }

/-- The pseudocode of `SET_H` (R109). -/
def setHEffect (h : Half) (s : State) : State :=
  if s.midFrame then s.violate .midFrameReconfig
  else if h = 0 then s.violate .emptyImage
  else if s.panelH = none ∨ s.panelH = some h then { s with H := h }
  else s.violate .heightMismatch

/-- The pseudocode of `PIX8` (R110). -/
def pix8Effect (p : Byte) : State → State := rasterStep (threshold p)

/-- The pseudocode of `PIX1` (R111). -/
def pix1Effect (b : Bit) : State → State := rasterStep b

/-- `SET_W w` (R108). -/
def execSetW (w : Half) : State → Host.Outcome State Fault Refusal := command (setWEffect w)

/-- `SET_H h` (R109). -/
def execSetH (h : Half) : State → Host.Outcome State Fault Refusal := command (setHEffect h)

/-- `PIX8 p` (R110). -/
def execPix8 (p : Byte) : State → Host.Outcome State Fault Refusal := command (pix8Effect p)

/-- `PIX1 b` (R111). -/
def execPix1 (b : Bit) : State → Host.Outcome State Fault Refusal := command (pix1Effect b)

end Sys2Proof.Machine
end

