-- ==== Sys2Proof/Machine/Pbt.lean ====
section
/-! DEFINITION. The commands of PBT, the packetized bulk transport: `BYTE`, `FLUSH` (R133, R134). -/

namespace Sys2Proof.Machine

/-- The pseudocode of `BYTE` (R133). -/
def byteEffect (d : Byte) : State → State := requireOpen fun s => drain (s.append [d])

/-- The transfer `FLUSH` makes: all that waits (R134). -/
def State.remainder (s : State) : Txn := .bulk Config.epBulkOut s.fifo

/-- The pseudocode of `FLUSH` (R134): what is left goes out as one final short transfer; nothing is emitted when nothing
is left (log entry 17). -/
def flushEffect : State → State := requireOpen fun s =>
  if s.fifo = [] then s
  else
    match emit s.remainder s with
    | (.ok, t) => { t with fifo := [] }
    | (_, t) => t

/-- `BYTE d` (R133). -/
def execByte (d : Byte) : State → Host.Outcome State Fault Refusal := command (byteEffect d)

/-- `FLUSH` (R134). -/
def execFlush : State → Host.Outcome State Fault Refusal := command flushEffect

end Sys2Proof.Machine
end

