-- ==== Sys2Proof/Machine/Dispatch.lean ====
section
/-! DEFINITION. One arm per command. -/

namespace Sys2Proof.Machine

def exec (i : Instr) (s : State) : Host.Outcome State Fault Refusal :=
  match i with
  | .openDev => Sys2Proof.Machine.execOpen s
  | .setW w => Sys2Proof.Machine.execSetW w s
  | .setH h => Sys2Proof.Machine.execSetH h s
  | .pix8 p => Sys2Proof.Machine.execPix8 p s
  | .pix1 b => Sys2Proof.Machine.execPix1 b s
  | .byte d => Sys2Proof.Machine.execByte d s
  | .flush => Sys2Proof.Machine.execFlush s
  | .resetWriteptr => Sys2Proof.Machine.execResetWriteptr s
  | .panelOnoff v => Sys2Proof.Machine.execPanelOnoff v s
  | .panelBrightness n => Sys2Proof.Machine.execPanelBrightness n s

end Sys2Proof.Machine
end

