-- ==== Sys2Proof/Machine/Port.lean ====
section
/-! DEFINITION. The command port: what one step does with the host's next input (R18, R55, R191, R195, R210). -/

namespace Sys2Proof.Machine

/-- Reset by the host (R210): every element of the block takes its reset value; the host's remaining inputs, the
environment's answers and the parameter are not the block's and stay. -/
def restart (rest : List HostInput) (s : State) : State :=
  { State.reset with
    host := rest, txAnswers := s.txAnswers, openAnswers := s.openAnswers, panelH := s.panelH }

/-- One command word presented to the block, in the order of R191: a stalled block takes no word (R55), a halted one
completes any word at once (R188); then decoding, a reserved word raising (R182); then the command's own meaning. -/
def present (cw : Word) (s : State) : Host.Outcome State Fault Refusal :=
  match decode cw with
  | .cmd i => exec i s
  | .reserved w => command (State.violate (.reservedCommand w)) s

/-- What the host has left after its first reset, if it resets at all. -/
def afterReset : List HostInput → Option (List HostInput)
  | [] => none
  | .reset :: rest => some rest
  | .word _ :: rest => afterReset rest

/-- One step of the block. In a stalled transaction no command is taken any more and only a reset leaves it (R186,
R227; log entry 5). Otherwise the host's next input is taken; with none the block waits (log entry 2). -/
def portStep (s : State) : Host.Outcome State Fault Refusal :=
  match s.hung with
  | some _ =>
    match afterReset s.host with
    | some rest => .next (restart rest s)
    | none => .fault .stalled
  | none =>
    match s.host with
    | [] => .next s
    | .reset :: rest => .next (restart rest s)
    | .word cw :: rest => present cw { s with host := rest }

/-- The host presents `cw` next (R70). -/
def State.presentWord (cw : Word) (s : State) : State := { s with host := .word cw :: s.host }

end Sys2Proof.Machine
end

