-- ==== Sys2Proof/Machine/Step.lean ====
section
/-! DEFINITION. The step of the machine, and a state whose next step runs a given command word. -/

namespace Sys2Proof.Machine

/-- One step (Machine/Port.lean). -/
def step (s : State) : Host.Outcome State Fault Refusal := portStep s

/-- `s` with the command word of the opcode table's numbering next at the command port (log entry 1). -/
def State.withFetchWord (s : State) (nbits w : Nat) : State := s.presentWord (BitVec.ofNat 32 (w % 2 ^ nbits))

end Sys2Proof.Machine
end

