-- ==== Sys2Proof/Machine/Pseudo.lean ====
section
/-! DEFINITION. The host's notation: command sequences, the pseudo-instructions of R81 and raw movie frames (R42, R78).
The block sees only the expansions. -/

namespace Sys2Proof.Machine

/-- Commands executed one at a time, each to completion, in the order issued (R55). -/
def runCommands : List Instr → State → Host.Outcome State Fault Refusal
  | [], s => .next s
  | i :: is, s =>
    match exec i s with
    | .next t => runCommands is t
    | .fault r => .fault r
    | .refused r => .refused r

/-- The command that carries a pixel: its kind is carried by the command (R40). -/
def Pixel.command : Pixel → Instr
  | .intensity p => .pix8 p
  | .bilevel b => .pix1 b

/-- `PANEL_ON` (R81). -/
def panelOnCommands : List Instr := [.panelOnoff 1]

/-- `PANEL_OFF` (R81). -/
def panelOffCommands : List Instr := [.panelOnoff 0]

/-- `DIM w h` (R81). -/
def dimCommands (w h : Half) : List Instr := [.setW w, .setH h]

/-- `FRAME8 img` and `FRAME1 img` (R81): the pixel commands of an image in raster order (R41). -/
def frameCommands (img : Image) : List Instr := img.flatMap fun row => row.map Pixel.command

/-- `BYTES buf` (R81). -/
def bytesCommands (buf : List Byte) : List Instr := buf.map Instr.byte

/-- `SEND_IMAGE img` (R81), the single-image discipline. -/
def sendImageCommands (img : Image) : List Instr := .resetWriteptr :: (frameCommands img ++ [.flush])

/-- `PLAY_MOVIE f0 … fn` (R81), the movie discipline. -/
def playMovieCommands (frames : List Image) : List Instr :=
  .resetWriteptr :: frames.flatMap fun img => frameCommands img ++ [.flush]

/-- A raw movie frame of `h` rows of `w` bytes: byte y * w + x is the intensity at (x, y) (R42, R78). A frame of fewer
bytes is never presented (R42; log entry 20). -/
def rawFrame (w : Nat) : (h : Nat) → List Byte → Option Image
  | 0, _ => some []
  | h + 1, bytes =>
    if bytes.length < w then none
    else (rawFrame w h (bytes.drop w)).map ((bytes.take w).map Pixel.intensity :: ·)

end Sys2Proof.Machine
end

