-- ==== Sys2Proof/Safety.lean ====
section
/-! DEFINITION. The terms claims use: what holds between commands (R28), what the history `out` says (R26, R17, R50),
where bytes land on the device (R45, R156), and when a run has ended cleanly (R213). -/

namespace Sys2Proof

/-! ### Kinds of transaction -/

/-- A transaction of the shapes R50 and R75 allow the block. -/
def Txn.legal : Txn → Prop
  | .ctrl bm req val idx =>
    bm = Config.bmRequestType ∧ idx = Config.wIndex ∧
      (req = Config.reqResetWriteptr ∧ val = Config.resetWValue ∨
        req = Config.reqPanelOnoff ∧ val.toNat ≤ 1 ∨ req = Config.reqPanelBrightness)
  | .bulk ep bytes => ep = Config.epBulkOut ∧ 1 ≤ bytes.length ∧ bytes.length ≤ Config.pktMax

/-- The transaction is a control transfer. -/
def Txn.isCtrl : Txn → Bool
  | .ctrl _ _ _ _ => true
  | .bulk _ _ => false

/-- The payload of a bulk transaction, and nothing of a control transaction. -/
def Txn.payload : Txn → List Byte
  | .ctrl _ _ _ _ => []
  | .bulk _ b => b

/-! ### Kinds of command -/

/-- The command carries a pixel (`PIX8`, `PIX1`). -/
def Instr.isPixel : Instr → Bool
  | .pix8 _ => true
  | .pix1 _ => true
  | _ => false

/-- The command appends to the accumulator (`PIX8`, `PIX1`, `BYTE`; R135). -/
def Instr.isAppending : Instr → Bool
  | .pix8 _ => true
  | .pix1 _ => true
  | .byte _ => true
  | _ => false

/-- The commands that need the device (R158, R181): all but `OPEN`, `SET_W`, `SET_H`. -/
def Instr.needsDevice : Instr → Bool
  | .openDev => false
  | .setW _ => false
  | .setH _ => false
  | _ => true

/-- The control request and wValue of a control command (R75). -/
def Instr.controlRequest : Instr → Option (Byte × Half)
  | .resetWriteptr => some (Config.reqResetWriteptr, Config.resetWValue)
  | .panelOnoff v => some (Config.reqPanelOnoff, Machine.onoffValue v)
  | .panelBrightness n => some (Config.reqPanelBrightness, n)
  | _ => none

end Sys2Proof

namespace Sys2Proof.Machine

/-! ### What holds between commands -/

/-- Items 1 to 4 of R28, and the bound of R16. Item 1 is said of a state with no fault and no stalled transaction: a
halted or stalled block keeps its unsent packet (R16, R131). -/
structure State.Tidy (s : State) : Prop where
  fifo_short : s.fault = none → s.hung = none → s.fifo.length ≤ 63
  fifo_bound : s.fifo.length ≤ 67
  unconfigured : s.W = 0 ∨ s.H = 0 → s.rx = 0 ∧ s.ry = 0 ∧ s.acc = 0
  raster : 0 < s.W → 0 < s.H → s.rx < s.W ∧ s.ry < s.H
  acc_clear : ∀ k < 32, s.lane ≤ k → s.acc.getLsbD k = false

/-! ### What the history says -/

/-- The payload bytes an entry delivered: those of a bulk transaction with outcome `ok`. -/
def eventBytes (e : Event) : List Byte := if e.2 = .ok then e.1.payload else []

/-- The concatenation of every bulk payload with outcome `ok` (R28 item 7). -/
def delivered (out : List Event) : List Byte := out.flatMap eventBytes

/-- Every byte appended since reset, if R28 item 7 holds: what was delivered, then what waits. -/
def State.stream (s : State) : List Byte := delivered s.out ++ s.fifo

/-- The entries after the last control transaction with outcome `ok`, if there is one. -/
def sinceControl : List Event → Option (List Event)
  | [] => none
  | e :: rest =>
    match sinceControl rest with
    | some es => some es
    | none => if e.1.isCtrl ∧ e.2 = .ok then some rest else none

/-- R26's account of the write pointer from `out` alone: unknown with no successful control transaction or with a
failure after the last one, else the bytes bulk-written since. -/
def wptrOf (out : List Event) : Option Nat :=
  match sinceControl out with
  | none => none
  | some es => if es.any (fun e => e.2 == .fail) then none else some (delivered es).length

/-- The last entry for control request `req` that the device answered, with its wValue and outcome. -/
def lastRequest (req : Byte) : List Event → Option (Half × TxOutcome)
  | [] => none
  | e :: rest =>
    match lastRequest req rest with
    | some a => some a
    | none =>
      match e with
      | (.ctrl _ r val _, o) => if r = req ∧ o ≠ .stall then some (val, o) else none
      | (.bulk _ _, _) => none

/-- The value the last answered request `req` set: its wValue if it succeeded, unknown if it failed or there is none
(R23, R24). -/
def lastValue (req : Byte) (out : List Event) : Option Half :=
  match lastRequest req out with
  | some (val, .ok) => some val
  | _ => none

/-- The shadows are functions of `out` (R17, R26). -/
structure State.ShadowsOfOut (s : State) : Prop where
  wptr_eq : s.wptr = wptrOf s.out
  panelOn_eq : s.panelOn = (lastValue Config.reqPanelOnoff s.out).map onoffShadow
  bright_eq : s.bright = lastValue Config.reqPanelBrightness s.out

/-- What R17, R50 and R187 say of the history and the latch: legal transactions only; every one but the last has outcome
`ok`, and all of them while the block runs; a failed or stalled transaction is the last entry; nothing before `OPEN`. -/
structure State.HistoryOk (s : State) : Prop where
  legal : ∀ e ∈ s.out, e.1.legal
  all_ok_but_last : ∀ e ∈ s.out.dropLast, e.2 = .ok
  running_ok : s.fault = none → s.hung = none → ∀ e ∈ s.out, e.2 = .ok
  failed_last : ∀ t, s.fault = some (.transportFailure (.transaction t)) → s.out.getLast? = some (t, .fail)
  hung_last : ∀ t, s.hung = some (.transaction t) → s.out.getLast? = some (t, .stall)
  hung_no_fault : s.hung ≠ none → s.fault = none
  closed_silent : s.sess = .closed → s.out = []

/-! ### What a command appends -/

/-- The bytes a command appends to the accumulator in state `s`: 4 per completed Word, 1 per `BYTE` (R28 item 7). -/
def appendedBytes (i : Instr) (s : State) : List Byte :=
  let pixel (b : Bit) : List Byte :=
    if s.running ∧ s.sess ≠ .closed ∧ s.configured ∧ s.completesWord then wordBytes (s.assembled b) else []
  match i with
  | .pix8 p => pixel (threshold p)
  | .pix1 b => pixel b
  | .byte d => if s.running ∧ s.sess ≠ .closed then [d] else []
  | _ => []

/-- The bytes a command sequence appends when run from `s` (R135). -/
def appendedByAll : List Instr → State → List Byte
  | [], _ => []
  | i :: is, s =>
    appendedBytes i s ++
      match exec i s with
      | .next t => appendedByAll is t
      | .fault _ => []
      | .refused _ => []

/-! ### Where bytes land -/

/-- The bytes of the bulk transfers answered `ok`, each with its frame-buffer offset where that is known, the pointer being
`p` before the first entry (R45, R53). DESIGN CHOICE: a failed or stalled transfer contributes no byte here, though how
many of its bytes the device stored is unknown (R186; log entry 24). Unsafe for a claim about what the device holds after
one. -/
def deviceWrites (p : Option Nat) : List Event → List (Option Nat × Byte)
  | [] => []
  | e :: rest =>
    (eventBytes e).mapIdx (fun i b => (p.map (· + i), b)) ++ deviceWrites (wptrAfter e.1 e.2 p) rest

/-- The bulk transactions that carry the packets of a buffer, each with outcome `ok`. -/
def sentPackets (packets : List (List Byte)) : List Event := packets.map fun b => (.bulk Config.epBulkOut b, .ok)

/-! ### The end of a run -/

/-- A run has ended cleanly (R213). DESIGN CHOICE: "no more commands" is read as no more inputs of any kind, so a run whose
host will still reset the block has not ended (log entry 26). Safe: fewer states count as a clean end. -/
def State.CleanEnd (s : State) : Prop :=
  s.host = [] ∧ s.fault = none ∧ s.hung = none ∧ s.fifo = [] ∧ s.frameStart

/-- What the host process returns after a fault (R4, R180; log entry 7). -/
def State.hostExit (s : State) : Option Int := s.fault.map fun _ => Config.exitCode.toInt

end Sys2Proof.Machine
end

