-- ==== Sys2Proof/Certificates/Slice0/Obligations.lean ====
section
/-! DEFINITION. The statements. Each docstring names the rule or section of spec/ it formalises. Where a statement gives
the next state as an update of `s`, every field it does not name is unchanged. -/

open Sys2Proof Sys2Proof.Machine

/-! ### Encoding -/

/-- 30_encoding.md sections 1 to 3: decoding the word of a command gives the command back, every operand at every value. -/
def Obligations.DecodeOfEncode : Prop := ∀ i : Instr, decode (encode i) = .cmd i

/-- 30_encoding.md section 3: a command has one word. -/
def Obligations.EncodeOfDecode : Prop := ∀ (cw : Word) (i : Instr), decode cw = .cmd i → encode i = cw

/-- R72: a word selects a command if and only if `cw & mask = match`, and at most one row matches. -/
def Obligations.WordSelectsRowByMask : Prop :=
  (∀ cw : Word, ∀ r ∈ opcodeRows, cw &&& r.mask = r.selects ↔ ∃ i, decode cw = .cmd i ∧ i.mnemonic = r.mnemonic) ∧
  ∀ cw : Word, ∀ r ∈ opcodeRows, ∀ r' ∈ opcodeRows, cw &&& r.mask = r.selects → cw &&& r'.mask = r'.selects → r = r'

/-- 30_encoding.md sections 2 and 4: the reserved words are exactly those whose fields break a "must be 0" or name no
command. -/
def Obligations.ReservedExactlyIllFormedFields : Prop :=
  ∀ cw : Word, decode cw = .reserved cw ↔ (rawFields cw).wellFormed = false

/-- R182: a reserved word raises, and nothing but the latch changes. -/
def Obligations.ReservedWordRaises : Prop :=
  ∀ (s : State) (cw : Word) (rest : List HostInput), s.hung = none → s.fault = none →
    s.host = .word cw :: rest → decode cw = .reserved cw →
    step s = .next { s with
      host := rest, fault := some (.preconditionViolation (.reservedCommand cw)) }

/-- 95_test_vectors.md, table Q: words and what they decode to. -/
def Obligations.SampleWordsDecode : Prop :=
  decode 0x01000000 = .cmd .openDev ∧ decode 0x10000028 = .cmd (.setW 40) ∧
  decode 0x1100FFFF = .cmd (.setH 65535) ∧ decode 0x200000C8 = .cmd (.pix8 200) ∧
  decode 0x21000001 = .cmd (.pix1 1) ∧ decode 0x300000AA = .cmd (.byte 0xAA) ∧
  decode 0x31000000 = .cmd .flush ∧ decode 0x40000000 = .cmd .resetWriteptr ∧
  decode 0x40010000 = .cmd (.panelOnoff 0) ∧ decode 0x4002FFFF = .cmd (.panelBrightness 65535) ∧
  decode 0x20000100 = .reserved 0x20000100 ∧ decode 0x40010002 = .reserved 0x40010002 ∧
  decode 0x01010000 = .reserved 0x01010000 ∧ decode 0xFFFFFFFF = .reserved 0xFFFFFFFF

/-! ### The step -/

/-- 20_memory.md section 8: the host's next word, decoded, is executed, and the host has moved past it. The place where
the host's words stand is the model's (log entry 1). -/
def Obligations.StepRunsDecodedCommand : Prop :=
  ∀ (s : State) (cw : Word) (rest : List HostInput) (i : Instr), s.hung = none →
    s.host = .word cw :: rest → decode cw = .cmd i → step s = exec i { s with host := rest }

/-- R188: a halted block completes every word, legal or reserved, and nothing changes. -/
def Obligations.HaltedBlockDoesNothing : Prop :=
  ∀ s : State, s.hung = none → s.fault ≠ none →
    (∀ i : Instr, exec i s = .next s) ∧
    ∀ (cw : Word) (rest : List HostInput), s.host = .word cw :: rest → step s = .next { s with host := rest }

/-- 60_exceptions.md section 2: a stalled block executes no later command. That no step exists is said by the fault
`stalled`, the model's choice (log entry 4). -/
def Obligations.StalledBlockExecutesNothing : Prop :=
  ∀ s : State, s.hung ≠ none →
    (∀ i : Instr, exec i s = .fault .stalled) ∧ ((∀ x ∈ s.host, x ≠ .reset) → step s = .fault .stalled)

/-- 70_reset_and_hazards.md section 1: a reset by the host gives every element its reset value, also out of a halted or
stalled block. What becomes of the words a stalled block never took is the model's choice (log entry 5). -/
def Obligations.HostResetGivesResetState : Prop :=
  ∀ (s : State) (before rest : List HostInput), s.host = before ++ .reset :: rest →
    (∀ x ∈ before, x ≠ .reset) → (before = [] ∨ s.hung ≠ none) →
    step s = .next { State.reset with
      host := rest, txAnswers := s.txAnswers, openAnswers := s.openAnswers, panelH := s.panelH }

/-- The model's choice (log entry 2): with no input from the host the block waits unchanged. -/
def Obligations.WaitsForTheHost : Prop :=
  ∀ s : State, s.hung = none → s.host = [] → step s = .next s

/-- R27: the reset values of the block's elements. -/
def Obligations.ResetValues : Prop :=
  let s := State.reset
  s.sess = .closed ∧ s.W = 0 ∧ s.H = 0 ∧ s.rx = 0 ∧ s.ry = 0 ∧ s.acc = 0 ∧ s.fifo = [] ∧
    s.fault = none ∧ s.out = [] ∧ s.wptr = none ∧ s.panelOn = none ∧ s.bright = none

/-- 60_exceptions.md sections 2 to 4: a block that is not stalled answers every command with a next state, and the command
has completed (`hung` is still `none`) unless its transaction, or `OPEN`, was answered `stall`. That a command answered
`stall` gives a next state at all is the model's choice (log entry 4). -/
def Obligations.EveryCommandCompletes : Prop :=
  ∀ (i : Instr) (s : State), s.hung = none → ∃ t, exec i s = .next t ∧
    (∀ x, t.hung = some (.transaction x) → t.out.getLast? = some (x, .stall) ∧ s.out.length < t.out.length) ∧
    (t.hung = some .openDevice → i = .openDev ∧ s.openOutcome = .stall)

/-! ### ENC -/

/-- R108: `SET_W`. -/
def Obligations.SetWidthEffect : Prop :=
  ∀ w : Half, decode (packFields 0x10 0x00 w) = .cmd (.setW w) ∧
    ∀ s : State, s.hung = none → s.fault = none →
      (¬ (s.rx = 0 ∧ s.ry = 0) →
        exec (.setW w) s = .next { s with fault := some (.preconditionViolation .midFrameReconfig) }) ∧
      (s.rx = 0 ∧ s.ry = 0 → w = 0 →
        exec (.setW w) s = .next { s with fault := some (.preconditionViolation .emptyImage) }) ∧
      (s.rx = 0 ∧ s.ry = 0 → w ≠ 0 → exec (.setW w) s = .next { s with W := w })

/-- R109: `SET_H`, the parameter `PANEL_H` being the field `panelH`. -/
def Obligations.SetHeightEffect : Prop :=
  ∀ h : Half, decode (packFields 0x11 0x00 h) = .cmd (.setH h) ∧
    ∀ s : State, s.hung = none → s.fault = none →
      (¬ (s.rx = 0 ∧ s.ry = 0) →
        exec (.setH h) s = .next { s with fault := some (.preconditionViolation .midFrameReconfig) }) ∧
      (s.rx = 0 ∧ s.ry = 0 → h = 0 →
        exec (.setH h) s = .next { s with fault := some (.preconditionViolation .emptyImage) }) ∧
      (s.rx = 0 ∧ s.ry = 0 → h ≠ 0 → ¬ (s.panelH = none ∨ s.panelH = some h) →
        exec (.setH h) s = .next { s with fault := some (.preconditionViolation .heightMismatch) }) ∧
      (s.rx = 0 ∧ s.ry = 0 → h ≠ 0 → (s.panelH = none ∨ s.panelH = some h) →
        exec (.setH h) s = .next { s with H := h })

/-- 40_encoder.md section 5, the preconditions of the raster step: `PIX8` and `PIX1` with no session, and with a session
but a dimension still 0. -/
def Obligations.PixelPreconditions : Prop :=
  ∀ (px : Pixel) (s : State), s.hung = none → s.fault = none →
    (s.sess = .closed →
      exec px.command s = .next { s with fault := some (.preconditionViolation .notOpen) }) ∧
    (s.sess ≠ .closed → s.W = 0 ∨ s.H = 0 →
      exec px.command s = .next { s with fault := some (.preconditionViolation .emptyImage) })

/-- 40_encoder.md section 5, the raster step of `PIX8` and `PIX1` inside a Word: the pixel's bit joins `acc` and the
column advances. -/
def Obligations.PixelInsideWord : Prop :=
  ∀ (px : Pixel) (s : State), s.hung = none → s.fault = none → s.sess ≠ .closed → s.W ≠ 0 → s.H ≠ 0 →
    s.fifo.length ≤ 63 → s.rx.toNat % 32 ≠ 31 → s.rx ≠ s.W - 1 →
    exec px.command s = .next { s with
      acc := s.acc ||| (px.bit.setWidth 32 <<< (s.rx.toNat % 32))
      rx := s.rx + 1 }

/-- 40_encoder.md section 5, the raster step of `PIX8` and `PIX1` that completes a Word but no packet: the Word's four
bytes enter the accumulator. -/
def Obligations.PixelCompletesWord : Prop :=
  ∀ (px : Pixel) (s : State), s.hung = none → s.fault = none → s.sess ≠ .closed → s.W ≠ 0 → s.H ≠ 0 →
    s.fifo.length ≤ 59 → s.rx.toNat % 32 = 31 ∨ s.rx = s.W - 1 →
    exec px.command s = .next { s with
      acc := 0
      fifo := s.fifo ++ serLE32 (bitRev32 (s.acc ||| (px.bit.setWidth 32 <<< (s.rx.toNat % 32))))
      rx := if s.rx = s.W - 1 then 0 else s.rx + 1
      ry := if s.rx = s.W - 1 then (if s.ry = s.H - 1 then 0 else s.ry + 1) else s.ry }

/-- 40_encoder.md section 5 and 41_framer.md section 2: the raster step of `PIX8` and `PIX1` that completes a packet, for
each outcome of the one bulk transfer. The stall clause (a next state with `hung` set) is the model's choice (log
entry 4). -/
def Obligations.PixelCompletesPacket : Prop :=
  ∀ (px : Pixel) (s u : State) (bytes : List Byte) (x : Txn),
    s.hung = none → s.fault = none → s.sess ≠ .closed → s.W ≠ 0 → s.H ≠ 0 →
    60 ≤ s.fifo.length → s.fifo.length ≤ 63 → s.rx.toNat % 32 = 31 ∨ s.rx = s.W - 1 →
    bytes = s.fifo ++ serLE32 (bitRev32 (s.acc ||| (px.bit.setWidth 32 <<< (s.rx.toNat % 32)))) →
    x = .bulk 0x01 (bytes.take 64) →
    u = { s with
      acc := 0
      rx := if s.rx = s.W - 1 then 0 else s.rx + 1
      ry := if s.rx = s.W - 1 then (if s.ry = s.H - 1 then 0 else s.ry + 1) else s.ry
      txAnswers := s.txAnswers.tail } →
    (s.txOutcome x = .ok →
      exec px.command s = .next { u with
        fifo := bytes.drop 64, out := s.out ++ [(x, .ok)], wptr := s.wptr.map (· + 64), sess := .streaming }) ∧
    (s.txOutcome x = .fail →
      exec px.command s = .next { u with
        fifo := bytes, out := s.out ++ [(x, .fail)], wptr := none
        fault := some (.transportFailure (.transaction x)) }) ∧
    (s.txOutcome x = .stall →
      exec px.command s = .next { u with
        fifo := bytes, out := s.out ++ [(x, .stall)], hung := some (.transaction x) })

/-- 40_encoder.md section 5: in every state `PIX8 p` is `PIX1` of the thresholded intensity, which is the intensity's
most significant bit. -/
def Obligations.IntensityIsThresholdedPixel : Prop :=
  ∀ (p : Byte) (s : State), exec (.pix8 p) s = exec (.pix1 (if 127 < p.toNat then 1 else 0)) s ∧
    exec (.pix8 p) s = exec (.pix1 (p.extractLsb' 7 1)) s

/-! ### The pure functions of ENC -/

/-- R100: the threshold, strict; a bilevel pixel is not thresholded. -/
def Obligations.ThresholdLaw : Prop :=
  (∀ p : Byte, (Pixel.intensity p).bit = if 127 < p.toNat then 1 else 0) ∧ ∀ b : Bit, (Pixel.bilevel b).bit = b

/-- R101: the number of row blocks, the columns each holds, and how many the last one holds. -/
def Obligations.RowBlockCount : Prop :=
  ∀ w : Nat, nb w = (w + 31) / 32 ∧ nb w = ⌈(w : ℚ) / 32⌉₊ ∧
    (∀ j < nb w, (∀ x, x < w ∧ x / 32 = j ↔ 32 * j ≤ x ∧ x ≤ min (32 * j + 31) (w - 1)) ∧
      (j + 1 < nb w → min (32 * j + 31) (w - 1) = 32 * j + 31)) ∧
    (0 < w → 1 ≤ w - 32 * (nb w - 1) ∧ w - 32 * (nb w - 1) ≤ 32)

/-- R102: lane dx of the assembled Word is the pixel at column 32 j + dx, and 0 beyond the row. -/
def Obligations.AssembledLanes : Prop :=
  ∀ (row : List Bit) (j dx : Nat), dx < 32 →
    (asm row j).getLsbD dx = if h : 32 * j + dx < row.length then decide (row[32 * j + dx] = 1) else false

/-- R103: the reversal of all 32 bits, its involution, and the values the source states. -/
def Obligations.BitReversalLaws : Prop :=
  (∀ (a : Word) (i : Nat), i < 32 → (bitRev32 a).getLsbD i = a.getLsbD (31 - i)) ∧
  (∀ a : Word, bitRev32 (bitRev32 a) = a) ∧
  bitRev32 0x00000000 = 0x00000000 ∧ bitRev32 0xFFFFFFFF = 0xFFFFFFFF ∧ bitRev32 0x00000055 = 0xAA000000

/-- R104: byte i of the serialisation is bits 8 i to 8 i + 7, least significant byte first. -/
def Obligations.SerialisationLittleEndian : Prop :=
  ∀ v : Word, (serLE32 v).length = 4 ∧
    ∀ i t : Nat, i < 4 → t < 8 → ((serLE32 v).getD i 0).getLsbD t = v.getLsbD (8 * i + t)

/-- R107: the length law. -/
def Obligations.WireBufferLength : Prop :=
  ∀ (img : Image) (w h : Nat), img.isSize w h →
    (encFrame img).length = h * nb w * 4 ∧ (encFrame img).length = h * ⌈(w : ℚ) / 32⌉₊ * 4 ∧
      4 ∣ (encFrame img).length

/-- 20_memory.md section 2, the layout the spec derives ("The Word of row y, row block j", "Conversely, for a byte offset
o"): where every pixel goes, and what every bit of the wire buffer is. -/
def Obligations.WireBufferLayout : Prop :=
  ∀ (img : Image) (w h : Nat), img.isSize w h →
    (encFrame img).length = h * nb w * 4 ∧
    (∀ (x y : Nat) (px : Pixel), img.pix x y = some px →
      ((encFrame img).getD (4 * (y * nb w + x / 32) + (31 - x % 32) / 8) 0).getLsbD ((31 - x % 32) % 8) =
        decide (px.bit = 1)) ∧
    ∀ o t : Nat, o < h * nb w * 4 → t < 8 →
      ((encFrame img).getD o 0).getLsbD t =
        match img.pix (32 * (o / 4 % nb w) + 31 - 8 * (o % 4) - t) (o / 4 / nb w) with
        | some px => decide (px.bit = 1)
        | none => false

/-- 40_encoder.md section 2: all off gives an all-zero buffer; all on, with W a multiple of 32, gives all ones. -/
def Obligations.UniformImages : Prop :=
  ∀ (img : Image) (w h : Nat), img.isSize w h →
    ((∀ row ∈ img, ∀ px ∈ row, px.bit = 0) → encFrame img = List.replicate (h * nb w * 4) 0x00) ∧
    ((∀ row ∈ img, ∀ px ∈ row, px.bit = 1) → 32 ∣ w → encFrame img = List.replicate (h * nb w * 4) 0xFF)

/-! ### PBT -/

/-- R132: the packet sequence of a buffer. -/
def Obligations.ChunkLaws : Prop :=
  ∀ buf : List Byte,
    (chunk buf).length = (buf.length + 63) / 64 ∧
    (∀ p ∈ (chunk buf).dropLast, p.length = 64) ∧
    (∀ p ∈ chunk buf, 1 ≤ p.length ∧ p.length ≤ 64) ∧
    (∀ p ∈ (chunk buf).getLast?, p.length = if buf.length % 64 = 0 then 64 else buf.length % 64) ∧
    (chunk buf).flatten = buf ∧
    (∀ i p, (chunk buf)[i]? = some p → p = (buf.drop (64 * i)).take 64) ∧
    (chunk buf = if buf = [] then [] else buf.take 64 :: chunk (buf.drop 64))

/-- 41_framer.md section 2: the chunking loop in every state, with as many turns as there are full packets, or up to and
with the first transfer that fails or stalls. The stall clause (the field `hung`) is the model's choice (log entry 4). -/
def Obligations.DrainSendsFullPackets : Prop :=
  ∀ (s : State) (n : Nat), s.fault = none → n = s.fifo.length / 64 →
    (∀ rest, s.txAnswers = List.replicate n .ok ++ rest →
      drain s = { s with
        fifo := s.fifo.drop (64 * n)
        out := s.out ++ sentPackets (chunk (s.fifo.take (64 * n)))
        wptr := s.wptr.map (· + 64 * n)
        sess := if n = 0 then s.sess else .streaming
        txAnswers := rest }) ∧
    (∀ k rest x, k < n → s.txAnswers = List.replicate k .ok ++ .fail :: rest →
      x = .bulk 0x01 ((s.fifo.drop (64 * k)).take 64) →
      drain s = { s with
        fifo := s.fifo.drop (64 * k)
        out := s.out ++ sentPackets (chunk (s.fifo.take (64 * k))) ++ [(x, .fail)]
        wptr := none
        sess := if k = 0 then s.sess else .streaming
        fault := some (.transportFailure (.transaction x))
        txAnswers := rest }) ∧
    (∀ k rest x, k < n → s.txAnswers = List.replicate k .ok ++ .stall :: rest →
      x = .bulk 0x01 ((s.fifo.drop (64 * k)).take 64) →
      drain s = { s with
        fifo := s.fifo.drop (64 * k)
        out := s.out ++ sentPackets (chunk (s.fifo.take (64 * k))) ++ [(x, .stall)]
        wptr := s.wptr.map (· + 64 * k)
        sess := if k = 0 then s.sess else .streaming
        hung := some (.transaction x)
        txAnswers := rest })

/-- R133: `BYTE`, the accumulator holding at most 63 bytes as R28 says. A stall is in `StallHangsTheBlock`. -/
def Obligations.ByteEffect : Prop :=
  ∀ d : Byte, decode (packFields 0x30 0x00 (d.setWidth 16)) = .cmd (.byte d) ∧
    ∀ (s u : State) (x : Txn), s.hung = none → s.fault = none → s.fifo.length ≤ 63 →
      x = .bulk 0x01 (s.fifo ++ [d]) → u = { s with txAnswers := s.txAnswers.tail } →
      (s.sess = .closed →
        exec (.byte d) s = .next { s with fault := some (.preconditionViolation .notOpen) }) ∧
      (s.sess ≠ .closed → s.fifo.length < 63 →
        exec (.byte d) s = .next { s with fifo := s.fifo ++ [d] }) ∧
      (s.sess ≠ .closed → s.fifo.length = 63 → s.txOutcome x = .ok →
        exec (.byte d) s = .next { u with
          fifo := [], out := s.out ++ [(x, .ok)], wptr := s.wptr.map (· + 64), sess := .streaming }) ∧
      (s.sess ≠ .closed → s.fifo.length = 63 → s.txOutcome x = .fail →
        exec (.byte d) s = .next { u with
          fifo := s.fifo ++ [d], out := s.out ++ [(x, .fail)], wptr := none
          fault := some (.transportFailure (.transaction x)) })

/-- R134: `FLUSH`, the accumulator holding at most 63 bytes as R28 says. A stall is in `StallHangsTheBlock`. -/
def Obligations.FlushEffect : Prop :=
  decode (packFields 0x31 0x00 0x0000) = .cmd .flush ∧
    ∀ (s u : State) (x : Txn), s.hung = none → s.fault = none → s.fifo.length ≤ 63 →
      x = .bulk 0x01 s.fifo → u = { s with txAnswers := s.txAnswers.tail } →
      (s.sess = .closed →
        exec .flush s = .next { s with fault := some (.preconditionViolation .notOpen) }) ∧
      (s.sess ≠ .closed → s.fifo = [] → exec .flush s = .next s) ∧
      (s.sess ≠ .closed → s.fifo ≠ [] → s.txOutcome x = .ok →
        exec .flush s = .next { u with
          fifo := [], out := s.out ++ [(x, .ok)], wptr := s.wptr.map (· + s.fifo.length), sess := .streaming }) ∧
      (s.sess ≠ .closed → s.fifo ≠ [] → s.txOutcome x = .fail →
        exec .flush s = .next { u with
          out := s.out ++ [(x, .fail)], wptr := none, fault := some (.transportFailure (.transaction x)) })

/-! ### DCP -/

/-- 42_control.md section 1: `OPEN`, for the outcomes with which it completes. "The block never completes this command" on a
stall is in `StallHangsTheBlock`. -/
def Obligations.OpenEffect : Prop :=
  decode (packFields 0x01 0x00 0x0000) = .cmd .openDev ∧
    ∀ s u : State, s.hung = none → s.fault = none → u = { s with openAnswers := s.openAnswers.tail } →
      (s.sess ≠ .closed →
        exec .openDev s = .next { s with fault := some (.preconditionViolation .alreadyOpen) }) ∧
      (s.sess = .closed → s.openOutcome = .ok → exec .openDev s = .next { u with sess := .configured }) ∧
      (s.sess = .closed → s.openOutcome = .notFound →
        exec .openDev s = .next { u with fault := some .deviceNotFound }) ∧
      (s.sess = .closed → s.openOutcome = .fail →
        exec .openDev s = .next { u with fault := some (.transportFailure .openDevice) })

/-- R151: `RESET_WRITEPTR`. A stall is in `StallHangsTheBlock`. -/
def Obligations.ResetWriteptrEffect : Prop :=
  decode (packFields 0x40 0x00 0x0000) = .cmd .resetWriteptr ∧
    ∀ (s u : State) (x : Txn), s.hung = none → s.fault = none →
      x = .ctrl 0x40 0x00 0x0000 0x0000 → u = { s with txAnswers := s.txAnswers.tail } →
      (s.sess = .closed →
        exec .resetWriteptr s = .next { s with fault := some (.preconditionViolation .notOpen) }) ∧
      (s.sess ≠ .closed → s.txOutcome x = .ok →
        exec .resetWriteptr s = .next { u with out := s.out ++ [(x, .ok)], wptr := some 0, sess := .reset }) ∧
      (s.sess ≠ .closed → s.txOutcome x = .fail →
        exec .resetWriteptr s = .next { u with
          out := s.out ++ [(x, .fail)], wptr := none, fault := some (.transportFailure (.transaction x)) })

/-- R152: `PANEL_ONOFF`. A stall is in `StallHangsTheBlock`. -/
def Obligations.PanelOnoffEffect : Prop :=
  ∀ v : Bit, decode (packFields 0x40 0x01 (v.setWidth 16)) = .cmd (.panelOnoff v) ∧
    ∀ (s u : State) (x : Txn), s.hung = none → s.fault = none →
      x = .ctrl 0x40 0x01 (v.setWidth 16) 0x0000 → u = { s with txAnswers := s.txAnswers.tail } →
      (s.sess = .closed →
        exec (.panelOnoff v) s = .next { s with fault := some (.preconditionViolation .notOpen) }) ∧
      (s.sess ≠ .closed → s.txOutcome x = .ok →
        exec (.panelOnoff v) s = .next { u with
          out := s.out ++ [(x, .ok)], wptr := some 0, sess := .reset, panelOn := some v }) ∧
      (s.sess ≠ .closed → s.txOutcome x = .fail →
        exec (.panelOnoff v) s = .next { u with
          out := s.out ++ [(x, .fail)], wptr := none, panelOn := none
          fault := some (.transportFailure (.transaction x)) })

/-- R153: `PANEL_BRIGHTNESS`, the level unchanged and unchecked. A stall is in `StallHangsTheBlock`. -/
def Obligations.PanelBrightnessEffect : Prop :=
  ∀ n : Half, decode (packFields 0x40 0x02 n) = .cmd (.panelBrightness n) ∧
    ∀ (s u : State) (x : Txn), s.hung = none → s.fault = none →
      x = .ctrl 0x40 0x02 n 0x0000 → u = { s with txAnswers := s.txAnswers.tail } →
      (s.sess = .closed →
        exec (.panelBrightness n) s = .next { s with fault := some (.preconditionViolation .notOpen) }) ∧
      (s.sess ≠ .closed → s.txOutcome x = .ok →
        exec (.panelBrightness n) s = .next { u with
          out := s.out ++ [(x, .ok)], wptr := some 0, sess := .reset, bright := some n }) ∧
      (s.sess ≠ .closed → s.txOutcome x = .fail →
        exec (.panelBrightness n) s = .next { u with
          out := s.out ++ [(x, .fail)], wptr := none, bright := none
          fault := some (.transportFailure (.transaction x)) })

/-- 42_control.md section 3 ("Control commands are independent of ENC and PBT"): a control command makes its one
transaction at once and touches nothing of ENC or PBT, whatever the raster position and the accumulator. On a stall the
command never completes; that `exec` answers a next state there too is the model's choice (log entry 4). -/
def Obligations.ControlLeavesEncoderAndFramer : Prop :=
  ∀ (i : Instr) (req : Byte) (val : Half) (s : State), i.controlRequest = some (req, val) →
    s.hung = none → s.fault = none → s.sess ≠ .closed →
    ∃ t o, exec i s = .next t ∧ t.out = s.out ++ [(.ctrl 0x40 req val 0x0000, o)] ∧
      t.W = s.W ∧ t.H = s.H ∧ t.rx = s.rx ∧ t.ry = s.ry ∧ t.acc = s.acc ∧ t.fifo = s.fifo

/-- R159: the update of the shadows and the session for a transaction and its outcome. -/
def Obligations.ShadowUpdate : Prop :=
  ∀ (s : State) (bm req : Byte) (val idx : Half) (ep : Byte) (b : List Byte),
    s.update (.ctrl bm req val idx) .ok = { s with
      wptr := some 0, sess := .reset
      panelOn := if req = 0x01 then some (val.extractLsb' 0 1) else s.panelOn
      bright := if req = 0x02 then some val else s.bright } ∧
    s.update (.bulk ep b) .ok = { s with wptr := s.wptr.map (· + b.length), sess := .streaming } ∧
    s.update (.ctrl bm req val idx) .fail = { s with
      wptr := none
      panelOn := if req = 0x01 then none else s.panelOn
      bright := if req = 0x02 then none else s.bright } ∧
    s.update (.bulk ep b) .fail = { s with wptr := none } ∧
    s.update (.ctrl bm req val idx) .stall = s ∧ s.update (.bulk ep b) .stall = s

/-- R158: the transitions of the session state by a command that completes (`hung` is none after it), the accumulator
holding at most 63 bytes as R28 says. A stalled command is in `StallHangsTheBlock` and `PixelCompletesPacket`. -/
def Obligations.SessionTransitions : Prop :=
  ∀ (i : Instr) (s t : State), s.hung = none → s.fault = none → s.fifo.length ≤ 63 →
    exec i s = .next t → t.hung = none →
    (s.sess = .closed → i = .openDev →
      t.sess = (if s.openOutcome = .ok then .configured else .closed) ∧
      (t.fault = none ↔ s.openOutcome = .ok)) ∧
    (s.sess = .closed → i ≠ .openDev → t.sess = .closed) ∧
    (s.sess = .closed → i.needsDevice = true → t.fault = some (.preconditionViolation .notOpen)) ∧
    (s.sess ≠ .closed → i = .openDev →
      t.sess = s.sess ∧ t.fault = some (.preconditionViolation .alreadyOpen)) ∧
    (t.out = s.out → s.sess ≠ .closed → t.sess = s.sess) ∧
    (∀ x o, t.out = s.out ++ [(x, o)] →
      t.sess = (if o = .ok then (if x.isCtrl then .reset else .streaming) else s.sess) ∧
      (o = .fail → t.fault = some (.transportFailure (.transaction x))))

/-- 60_exceptions.md sections 1 and 6: every command that needs the device raises `NotOpen` with no session, before any
other check. -/
def Obligations.DeviceCommandsNeedSession : Prop :=
  ∀ (i : Instr) (s : State), i.needsDevice = true → s.hung = none → s.fault = none → s.sess = .closed →
    exec i s = .next { s with fault := some (.preconditionViolation .notOpen) }

/-! ### The whole machine -/

/-- 10_state.md section 10, items 1 to 4: what holds between commands is kept by every step. -/
def Obligations.TidyKeptByEveryStep : Prop :=
  ∀ s t : State, s.Tidy → step s = .next t → t.Tidy

/-- 10_state.md section 4, 20_memory.md section 5, 60_exceptions.md section 3: legal transactions only, a failed or
stalled one last, kept by every step. The field `hung`, which it relates to a stall, is the model's (log entry 4). -/
def Obligations.HistoryKeptByEveryStep : Prop :=
  ∀ s t : State, s.Tidy → s.HistoryOk → step s = .next t → t.HistoryOk

/-- 10_state.md sections 7 and 8: the shadow registers are functions of `out`, kept by every step. -/
def Obligations.ShadowsAreFunctionsOfOut : Prop :=
  ∀ s t : State, s.ShadowsOfOut → step s = .next t → t.ShadowsOfOut

/-- The three invariants hold at reset. -/
def Obligations.InvariantsAtReset : Prop :=
  State.reset.Tidy ∧ State.reset.HistoryOk ∧ State.reset.ShadowsOfOut

/-- R183: a command that ends in a precondition violation has changed nothing but the latch. -/
def Obligations.PreconditionViolationChangesNothing : Prop :=
  ∀ (i : Instr) (s t : State) (r : Reason), exec i s = .next t → s.fault = none →
    t.fault = some (.preconditionViolation r) → t = { s with fault := t.fault }

/-- 10_state.md section 4 and 60_exceptions.md section 6: `out` only grows at its end, by at most one legal transaction a
command. -/
def Obligations.AtMostOneLegalTransaction : Prop :=
  ∀ (i : Instr) (s t : State), exec i s = .next t → s.fifo.length ≤ 63 →
    t.out = s.out ∨ ∃ x o, t.out = s.out ++ [(x, o)] ∧ x.legal

/-- 10_state.md section 1: which command writes which element. -/
def Obligations.WrittenOnlyBy : Prop :=
  ∀ (i : Instr) (s t : State), exec i s = .next t →
    ((∀ w, i ≠ .setW w) → t.W = s.W) ∧
    ((∀ h, i ≠ .setH h) → t.H = s.H) ∧
    (i.isPixel = false → t.rx = s.rx ∧ t.ry = s.ry ∧ t.acc = s.acc) ∧
    (i.isAppending = false → i ≠ .flush → t.fifo = s.fifo) ∧
    ((∀ v, i ≠ .panelOnoff v) → t.panelOn = s.panelOn) ∧
    ((∀ n, i ≠ .panelBrightness n) → t.bright = s.bright) ∧
    (i.needsDevice = false → t.out = s.out ∧ t.wptr = s.wptr) ∧
    t.host = s.host ∧ t.panelH = s.panelH

/-- 10_state.md section 6 and 60_exceptions.md section 4: a latched fault stays, with `out` frozen, unless the host
resets. -/
def Obligations.FaultClearedOnlyByReset : Prop :=
  ∀ s t : State, step s = .next t → s.fault ≠ none →
    (t.fault = s.fault ∧ t.out = s.out ∧ t.fifo = s.fifo ∧ t.sess = s.sess) ∨
    ∃ rest, .reset ∈ s.host ∧ t = { State.reset with
      host := rest, txAnswers := s.txAnswers, openAnswers := s.openAnswers, panelH := s.panelH }

/-- 10_state.md section 10 item 7 and 41_framer.md section 4: no byte is lost, repeated or reordered, whatever the
outcomes. -/
def Obligations.StreamKeepsEveryByte : Prop :=
  ∀ (i : Instr) (s t : State), exec i s = .next t → t.stream = s.stream ++ appendedBytes i s

/-- 10_state.md section 10 item 5: without `BYTE`, the accumulator and every payload hold whole Words. -/
def Obligations.WholeWordsWithoutByte : Prop :=
  ∀ (i : Instr) (s t : State), (∀ d, i ≠ .byte d) → exec i s = .next t →
    4 ∣ s.fifo.length → (∀ e ∈ s.out, 4 ∣ e.1.payload.length) →
    4 ∣ t.fifo.length ∧ ∀ e ∈ t.out, 4 ∣ e.1.payload.length

/-! ### Command sequences -/

/-- 40_encoder.md section 6, the agreement the spec derives ("a model should prove it"): the pixel commands of an image, run in raster order from frame start with every outcome `ok`, append exactly
the encoder's bytes, row by row, and return to frame start. With y rows done the bytes are those of the first y rows. -/
def Obligations.FrameComputesEncFrame : Prop :=
  ∀ (img : Image) (s : State) (y n : Nat) (rest : List TxOutcome),
    img.isSize s.W.toNat s.H.toNat → y ≤ s.H.toNat →
    s.hung = none → s.fault = none → s.sess ≠ .closed → s.rx = 0 → s.ry = 0 → s.acc = 0 → s.fifo.length ≤ 63 →
    n = (s.fifo.length + y * nb s.W.toNat * 4) / 64 → s.txAnswers = List.replicate n .ok ++ rest →
    ((frameCommands (img.take y)).length = s.W.toNat * y ∧
      frameCommands (img.take y) = (frameCommands img).take (s.W.toNat * y)) ∧
    runCommands (frameCommands (img.take y)) s = .next { s with
      ry := if y = s.H.toNat then 0 else BitVec.ofNat 16 y
      fifo := (s.fifo ++ encFrame (img.take y)).drop (64 * n)
      out := s.out ++ sentPackets (chunk ((s.fifo ++ encFrame (img.take y)).take (64 * n)))
      wptr := s.wptr.map (· + 64 * n)
      sess := if n = 0 then s.sess else .streaming
      txAnswers := rest }

/-- 41_framer.md section 4, derived there ("The commands compute `Chunk`"): any appending commands from an empty accumulator, then one `FLUSH`, send exactly the packets of the bytes they
appended, if nothing failed or stalled. -/
def Obligations.AppendsThenFlushSendChunks : Prop :=
  ∀ (cs : List Instr) (s t : State), (∀ i ∈ cs, i.isAppending = true) →
    s.hung = none → s.fault = none → s.sess ≠ .closed → s.fifo = [] →
    runCommands (cs ++ [.flush]) s = .next t → t.fault = none → t.hung = none →
    t.fifo = [] ∧ t.out = s.out ++ sentPackets (chunk (appendedByAll cs s))

/-- 30_encoding.md section 7 and 41_framer.md section 4: `BYTES buf` then `FLUSH` from an empty accumulator. -/
def Obligations.BytesThenFlushSendBuffer : Prop :=
  ∀ (buf : List Byte) (s : State) (rest : List TxOutcome),
    s.hung = none → s.fault = none → s.sess ≠ .closed → s.fifo = [] →
    s.txAnswers = List.replicate ((buf.length + 63) / 64) .ok ++ rest →
    runCommands (bytesCommands buf ++ [.flush]) s = .next { s with
      out := s.out ++ sentPackets (chunk buf)
      wptr := s.wptr.map (· + buf.length)
      sess := if buf = [] then s.sess else .streaming
      txAnswers := rest }

/-- 42_control.md section 5, the single-image discipline: `SEND_IMAGE` from frame start with an empty accumulator starts
the frame at offset 0 and leaves nothing behind. -/
def Obligations.SendImageDeliversFrameAtZero : Prop :=
  ∀ (img : Image) (s : State) (rest : List TxOutcome) (reset : Event),
    img.isSize s.W.toNat s.H.toNat →
    s.hung = none → s.fault = none → s.sess ≠ .closed → s.rx = 0 → s.ry = 0 → s.acc = 0 → s.fifo = [] →
    s.txAnswers = List.replicate (1 + ((encFrame img).length + 63) / 64) .ok ++ rest →
    reset = (.ctrl 0x40 0x00 0x0000 0x0000, .ok) →
    runCommands (sendImageCommands img) s = .next { s with
      out := s.out ++ reset :: sentPackets (chunk (encFrame img))
      wptr := some (s.H.toNat * nb s.W.toNat * 4)
      sess := .streaming
      txAnswers := rest } ∧
    deviceWrites s.wptr (reset :: sentPackets (chunk (encFrame img))) =
      (encFrame img).mapIdx fun i b => (some i, b)

/-- 42_control.md section 5, the movie discipline: one reset, then each frame flushed; frame k starts at k times the
frame's length, and its bytes land from there on. -/
def Obligations.PlayMovieFramesFollowOn : Prop :=
  ∀ (frames : List Image) (s : State) (rest : List TxOutcome) (len : Nat) (sent : List Event),
    (∀ img ∈ frames, img.isSize s.W.toNat s.H.toNat) →
    s.hung = none → s.fault = none → s.sess ≠ .closed → s.rx = 0 → s.ry = 0 → s.acc = 0 → s.fifo = [] →
    len = s.H.toNat * nb s.W.toNat * 4 →
    s.txAnswers = List.replicate (1 + frames.length * ((len + 63) / 64)) .ok ++ rest →
    sent = (.ctrl 0x40 0x00 0x0000 0x0000, .ok) :: frames.flatMap (fun img => sentPackets (chunk (encFrame img))) →
    runCommands (playMovieCommands frames) s = .next { s with
      out := s.out ++ sent
      wptr := some (frames.length * len)
      sess := if frames = [] then .reset else .streaming
      txAnswers := rest } ∧
    (deviceWrites s.wptr sent).length = frames.length * len ∧
    ∀ k img, frames[k]? = some img →
      ((deviceWrites s.wptr sent).drop (k * len)).take len =
        (encFrame img).mapIdx fun i b => (some (k * len + i), b)

/-- 20_memory.md sections 4 and 5: packets land one after another from where the pointer stands. -/
def Obligations.PacketsLandInOrder : Prop :=
  ∀ (p : Nat) (packets : List (List Byte)),
    deviceWrites (some p) (sentPackets packets) = packets.flatten.mapIdx fun i b => (some (p + i), b)

/-- 20_memory.md section 1: byte y * W + x of a raw movie frame is the intensity at (x, y) and is sent with `PIX8`. That a
short frame gives no image and that bytes after the frame are not looked at is the model's reading (log entry 20). -/
def Obligations.RawFrameIsRowMajor : Prop :=
  ∀ (w h : Nat) (bytes : List Byte), 0 < w → 0 < h →
    (bytes.length < w * h → rawFrame w h bytes = none) ∧
    (w * h ≤ bytes.length → ∃ img, rawFrame w h bytes = some img ∧ img.isSize w h ∧
      (∀ x y, x < w → y < h → img.pix x y = (bytes[y * w + x]?).map Pixel.intensity) ∧
      frameCommands img = (bytes.take (w * h)).map Instr.pix8)

/-! ### A transfer that never returns -/

/-- 60_exceptions.md section 2 ("The command in progress never completes"): what `BYTE`, `FLUSH`, `OPEN` and the three
control commands leave when the environment answers `stall`; for `PIX8` and `PIX1` see `PixelCompletesPacket`. That `exec`
answers a next state with `hung` set is the model's choice (log entry 4). -/
def Obligations.StallHangsTheBlock : Prop :=
  ∀ s u : State, s.hung = none → s.fault = none → u = { s with txAnswers := s.txAnswers.tail } →
    (∀ d x, s.sess ≠ .closed → s.fifo.length = 63 → x = .bulk 0x01 (s.fifo ++ [d]) → s.txOutcome x = .stall →
      exec (.byte d) s = .next { u with
        fifo := s.fifo ++ [d], out := s.out ++ [(x, .stall)], hung := some (.transaction x) }) ∧
    (∀ x, s.sess ≠ .closed → s.fifo ≠ [] → s.fifo.length ≤ 63 → x = .bulk 0x01 s.fifo → s.txOutcome x = .stall →
      exec .flush s = .next { u with out := s.out ++ [(x, .stall)], hung := some (.transaction x) }) ∧
    (∀ i req val x, i.controlRequest = some (req, val) → s.sess ≠ .closed → x = .ctrl 0x40 req val 0x0000 →
      s.txOutcome x = .stall →
      exec i s = .next { u with out := s.out ++ [(x, .stall)], hung := some (.transaction x) }) ∧
    (s.sess = .closed → s.openOutcome = .stall →
      exec .openDev s = .next { s with openAnswers := s.openAnswers.tail, hung := some .openDevice })
end

