-- ==== Sys2Proof/Laws/Encoding.lean ====
section
/-! SUPPORT. The fields of a command word, read back from `packFields`, and what the decoder's answers are. -/

namespace Sys2Proof

@[simp] theorem opField_packFields (op req : Byte) (arg : Half) : opField (packFields op req arg) = op := by
  apply BitVec.eq_of_getLsbD_eq
  intro i h
  simp [opField, packFields, h, show 24 + i < 32 by omega, BitVec.getLsbD_of_ge req (24 + i - 16) (by omega),
    BitVec.getLsbD_of_ge arg (24 + i) (by omega)]

@[simp] theorem reqField_packFields (op req : Byte) (arg : Half) : reqField (packFields op req arg) = req := by
  apply BitVec.eq_of_getLsbD_eq
  intro i h
  simp [reqField, packFields, h, show 16 + i < 32 by omega, show 16 + i < 24 by omega]

@[simp] theorem argField_packFields (op req : Byte) (arg : Half) : argField (packFields op req arg) = arg := by
  apply BitVec.eq_of_getLsbD_eq
  intro i h
  simp [argField, packFields, h, show i < 32 by omega, show i < 24 by omega]

/-- Two command words with the same fields are the same word. -/
theorem word_eq_of_fields {a b : Word} (ho : opField a = opField b) (hr : reqField a = reqField b)
    (ha : argField a = argField b) : a = b := by
  apply BitVec.eq_of_getLsbD_eq
  intro i h
  simp only [opField, reqField, argField] at ho hr ha
  by_cases c₁ : i < 16
  · have := congrArg (·.getLsbD i) ha
    simpa [c₁, h] using this
  · by_cases c₂ : i < 24
    · have := congrArg (·.getLsbD (i - 16)) hr
      simpa [show i - 16 < 8 by omega, show 16 + (i - 16) = i by omega] using this
    · have := congrArg (·.getLsbD (i - 24)) ho
      simpa [show i - 24 < 8 by omega, show 24 + (i - 24) = i by omega] using this

/-- A command word is the packing of its fields. -/
theorem packFields_fields (cw : Word) : packFields (opField cw) (reqField cw) (argField cw) = cw := by
  apply word_eq_of_fields <;> simp

/-- The reserved answer carries the word itself. -/
theorem decode_reserved {cw w : Word} (h : decode cw = .reserved w) : w = cw := by
  simp only [decode] at h
  split_ifs at h
  exact (Decoded.reserved.inj h).symm

end Sys2Proof
end

