-- ==== Sys2Proof/Laws/State.lean ====
section
/-! SUPPORT. One lemma per field for each named update of the state, so that no later proof unfolds a record update. -/

namespace Sys2Proof.Machine

variable (s : State) (e : Exc) (r : Reason) (t : Txn) (o : TxOutcome) (bs : List Byte)

/-! ### `raise` and `violate` (R187) -/

theorem State.raise_of_none (h : s.fault = none) : s.raise e = { s with fault := some e } := by
  simp [State.raise, h]

theorem State.raise_of_some (h : s.fault ≠ none) : s.raise e = s := by
  cases hf : s.fault with
  | none => exact absurd hf h
  | some _ => simp [State.raise, hf]

theorem State.violate_of_none (h : s.fault = none) :
    s.violate r = { s with fault := some (.preconditionViolation r) } := s.raise_of_none _ h

@[simp] theorem State.raise_W : (s.raise e).W = s.W := by unfold State.raise; split <;> rfl
@[simp] theorem State.raise_H : (s.raise e).H = s.H := by unfold State.raise; split <;> rfl
@[simp] theorem State.raise_rx : (s.raise e).rx = s.rx := by unfold State.raise; split <;> rfl
@[simp] theorem State.raise_ry : (s.raise e).ry = s.ry := by unfold State.raise; split <;> rfl
@[simp] theorem State.raise_acc : (s.raise e).acc = s.acc := by unfold State.raise; split <;> rfl
@[simp] theorem State.raise_fifo : (s.raise e).fifo = s.fifo := by unfold State.raise; split <;> rfl
@[simp] theorem State.raise_sess : (s.raise e).sess = s.sess := by unfold State.raise; split <;> rfl
@[simp] theorem State.raise_wptr : (s.raise e).wptr = s.wptr := by unfold State.raise; split <;> rfl
@[simp] theorem State.raise_panelOn : (s.raise e).panelOn = s.panelOn := by unfold State.raise; split <;> rfl
@[simp] theorem State.raise_bright : (s.raise e).bright = s.bright := by unfold State.raise; split <;> rfl
@[simp] theorem State.raise_out : (s.raise e).out = s.out := by unfold State.raise; split <;> rfl
@[simp] theorem State.raise_hung : (s.raise e).hung = s.hung := by unfold State.raise; split <;> rfl
@[simp] theorem State.raise_host : (s.raise e).host = s.host := by unfold State.raise; split <;> rfl
@[simp] theorem State.raise_txAnswers : (s.raise e).txAnswers = s.txAnswers := by unfold State.raise; split <;> rfl
@[simp] theorem State.raise_openAnswers : (s.raise e).openAnswers = s.openAnswers := by unfold State.raise; split <;> rfl
@[simp] theorem State.raise_panelH : (s.raise e).panelH = s.panelH := by unfold State.raise; split <;> rfl
@[simp] theorem State.violate_W : (s.violate r).W = s.W := s.raise_W _
@[simp] theorem State.violate_H : (s.violate r).H = s.H := s.raise_H _
@[simp] theorem State.violate_rx : (s.violate r).rx = s.rx := s.raise_rx _
@[simp] theorem State.violate_ry : (s.violate r).ry = s.ry := s.raise_ry _
@[simp] theorem State.violate_acc : (s.violate r).acc = s.acc := s.raise_acc _
@[simp] theorem State.violate_fifo : (s.violate r).fifo = s.fifo := s.raise_fifo _
@[simp] theorem State.violate_sess : (s.violate r).sess = s.sess := s.raise_sess _
@[simp] theorem State.violate_wptr : (s.violate r).wptr = s.wptr := s.raise_wptr _
@[simp] theorem State.violate_panelOn : (s.violate r).panelOn = s.panelOn := s.raise_panelOn _
@[simp] theorem State.violate_bright : (s.violate r).bright = s.bright := s.raise_bright _
@[simp] theorem State.violate_out : (s.violate r).out = s.out := s.raise_out _
@[simp] theorem State.violate_hung : (s.violate r).hung = s.hung := s.raise_hung _
@[simp] theorem State.violate_host : (s.violate r).host = s.host := s.raise_host _
@[simp] theorem State.violate_txAnswers : (s.violate r).txAnswers = s.txAnswers := s.raise_txAnswers _
@[simp] theorem State.violate_openAnswers : (s.violate r).openAnswers = s.openAnswers := s.raise_openAnswers _
@[simp] theorem State.violate_panelH : (s.violate r).panelH = s.panelH := s.raise_panelH _

/-- The latch keeps its first exception. -/
@[simp] theorem State.raise_fault : (s.raise e).fault = some (s.fault.getD e) := by
  unfold State.raise; split <;> simp_all

@[simp] theorem State.violate_fault : (s.violate r).fault = some (s.fault.getD (.preconditionViolation r)) := s.raise_fault _

/-! ### `record` (R52) -/

@[simp] theorem State.record_W : (s.record t o).W = s.W := rfl
@[simp] theorem State.record_H : (s.record t o).H = s.H := rfl
@[simp] theorem State.record_rx : (s.record t o).rx = s.rx := rfl
@[simp] theorem State.record_ry : (s.record t o).ry = s.ry := rfl
@[simp] theorem State.record_acc : (s.record t o).acc = s.acc := rfl
@[simp] theorem State.record_fifo : (s.record t o).fifo = s.fifo := rfl
@[simp] theorem State.record_sess : (s.record t o).sess = s.sess := rfl
@[simp] theorem State.record_fault : (s.record t o).fault = s.fault := rfl
@[simp] theorem State.record_wptr : (s.record t o).wptr = s.wptr := rfl
@[simp] theorem State.record_panelOn : (s.record t o).panelOn = s.panelOn := rfl
@[simp] theorem State.record_bright : (s.record t o).bright = s.bright := rfl
@[simp] theorem State.record_out : (s.record t o).out = s.out ++ [(t, o)] := rfl
@[simp] theorem State.record_hung : (s.record t o).hung = s.hung := rfl
@[simp] theorem State.record_host : (s.record t o).host = s.host := rfl
@[simp] theorem State.record_txAnswers : (s.record t o).txAnswers = s.txAnswers.tail := rfl
@[simp] theorem State.record_openAnswers : (s.record t o).openAnswers = s.openAnswers := rfl
@[simp] theorem State.record_panelH : (s.record t o).panelH = s.panelH := rfl

/-! ### `update` (R159) -/

@[simp] theorem State.update_W : (s.update t o).W = s.W := rfl
@[simp] theorem State.update_H : (s.update t o).H = s.H := rfl
@[simp] theorem State.update_rx : (s.update t o).rx = s.rx := rfl
@[simp] theorem State.update_ry : (s.update t o).ry = s.ry := rfl
@[simp] theorem State.update_acc : (s.update t o).acc = s.acc := rfl
@[simp] theorem State.update_fifo : (s.update t o).fifo = s.fifo := rfl
@[simp] theorem State.update_sess : (s.update t o).sess = sessAfter t o s.sess := rfl
@[simp] theorem State.update_fault : (s.update t o).fault = s.fault := rfl
@[simp] theorem State.update_wptr : (s.update t o).wptr = wptrAfter t o s.wptr := rfl
@[simp] theorem State.update_panelOn : (s.update t o).panelOn = panelOnAfter t o s.panelOn := rfl
@[simp] theorem State.update_bright : (s.update t o).bright = brightAfter t o s.bright := rfl
@[simp] theorem State.update_out : (s.update t o).out = s.out := rfl
@[simp] theorem State.update_hung : (s.update t o).hung = s.hung := rfl
@[simp] theorem State.update_host : (s.update t o).host = s.host := rfl
@[simp] theorem State.update_txAnswers : (s.update t o).txAnswers = s.txAnswers := rfl
@[simp] theorem State.update_openAnswers : (s.update t o).openAnswers = s.openAnswers := rfl
@[simp] theorem State.update_panelH : (s.update t o).panelH = s.panelH := rfl

/-! ### `append` (R16) -/

@[simp] theorem State.append_W : (s.append bs).W = s.W := rfl
@[simp] theorem State.append_H : (s.append bs).H = s.H := rfl
@[simp] theorem State.append_rx : (s.append bs).rx = s.rx := rfl
@[simp] theorem State.append_ry : (s.append bs).ry = s.ry := rfl
@[simp] theorem State.append_acc : (s.append bs).acc = s.acc := rfl
@[simp] theorem State.append_fifo : (s.append bs).fifo = s.fifo ++ bs := rfl
@[simp] theorem State.append_sess : (s.append bs).sess = s.sess := rfl
@[simp] theorem State.append_fault : (s.append bs).fault = s.fault := rfl
@[simp] theorem State.append_wptr : (s.append bs).wptr = s.wptr := rfl
@[simp] theorem State.append_panelOn : (s.append bs).panelOn = s.panelOn := rfl
@[simp] theorem State.append_bright : (s.append bs).bright = s.bright := rfl
@[simp] theorem State.append_out : (s.append bs).out = s.out := rfl
@[simp] theorem State.append_hung : (s.append bs).hung = s.hung := rfl
@[simp] theorem State.append_host : (s.append bs).host = s.host := rfl
@[simp] theorem State.append_txAnswers : (s.append bs).txAnswers = s.txAnswers := rfl
@[simp] theorem State.append_openAnswers : (s.append bs).openAnswers = s.openAnswers := rfl
@[simp] theorem State.append_panelH : (s.append bs).panelH = s.panelH := rfl

/-! ### `advance` (R112) -/

@[simp] theorem State.advance_W : s.advance.W = s.W := by unfold State.advance; split <;> rfl
@[simp] theorem State.advance_H : s.advance.H = s.H := by unfold State.advance; split <;> rfl
@[simp] theorem State.advance_acc : s.advance.acc = s.acc := by unfold State.advance; split <;> rfl
@[simp] theorem State.advance_fifo : s.advance.fifo = s.fifo := by unfold State.advance; split <;> rfl
@[simp] theorem State.advance_sess : s.advance.sess = s.sess := by unfold State.advance; split <;> rfl
@[simp] theorem State.advance_fault : s.advance.fault = s.fault := by unfold State.advance; split <;> rfl
@[simp] theorem State.advance_wptr : s.advance.wptr = s.wptr := by unfold State.advance; split <;> rfl
@[simp] theorem State.advance_panelOn : s.advance.panelOn = s.panelOn := by unfold State.advance; split <;> rfl
@[simp] theorem State.advance_bright : s.advance.bright = s.bright := by unfold State.advance; split <;> rfl
@[simp] theorem State.advance_out : s.advance.out = s.out := by unfold State.advance; split <;> rfl
@[simp] theorem State.advance_hung : s.advance.hung = s.hung := by unfold State.advance; split <;> rfl
@[simp] theorem State.advance_host : s.advance.host = s.host := by unfold State.advance; split <;> rfl
@[simp] theorem State.advance_txAnswers : s.advance.txAnswers = s.txAnswers := by unfold State.advance; split <;> rfl
@[simp] theorem State.advance_openAnswers : s.advance.openAnswers = s.openAnswers := by unfold State.advance; split <;> rfl
@[simp] theorem State.advance_panelH : s.advance.panelH = s.panelH := by unfold State.advance; split <;> rfl

theorem State.advance_rx : s.advance.rx = if s.lastColumn then 0 else s.rx + 1 := by
  unfold State.advance; split <;> rfl

theorem State.advance_ry : s.advance.ry = if s.lastColumn then (if s.ry = s.H - 1 then 0 else s.ry + 1) else s.ry := by
  unfold State.advance; split <;> rfl

/-! ### `assemble` (R112) -/

@[simp] theorem State.assemble_W (b : Bit) : (s.assemble b).W = s.W := by unfold State.assemble; split <;> rfl
@[simp] theorem State.assemble_H (b : Bit) : (s.assemble b).H = s.H := by unfold State.assemble; split <;> rfl
@[simp] theorem State.assemble_rx (b : Bit) : (s.assemble b).rx = s.rx := by unfold State.assemble; split <;> rfl
@[simp] theorem State.assemble_ry (b : Bit) : (s.assemble b).ry = s.ry := by unfold State.assemble; split <;> rfl
@[simp] theorem State.assemble_sess (b : Bit) : (s.assemble b).sess = s.sess := by unfold State.assemble; split <;> rfl
@[simp] theorem State.assemble_fault (b : Bit) : (s.assemble b).fault = s.fault := by unfold State.assemble; split <;> rfl
@[simp] theorem State.assemble_wptr (b : Bit) : (s.assemble b).wptr = s.wptr := by unfold State.assemble; split <;> rfl
@[simp] theorem State.assemble_panelOn (b : Bit) : (s.assemble b).panelOn = s.panelOn := by unfold State.assemble; split <;> rfl
@[simp] theorem State.assemble_bright (b : Bit) : (s.assemble b).bright = s.bright := by unfold State.assemble; split <;> rfl
@[simp] theorem State.assemble_out (b : Bit) : (s.assemble b).out = s.out := by unfold State.assemble; split <;> rfl
@[simp] theorem State.assemble_hung (b : Bit) : (s.assemble b).hung = s.hung := by unfold State.assemble; split <;> rfl
@[simp] theorem State.assemble_host (b : Bit) : (s.assemble b).host = s.host := by unfold State.assemble; split <;> rfl
@[simp] theorem State.assemble_txAnswers (b : Bit) : (s.assemble b).txAnswers = s.txAnswers := by unfold State.assemble; split <;> rfl
@[simp] theorem State.assemble_openAnswers (b : Bit) : (s.assemble b).openAnswers = s.openAnswers := by unfold State.assemble; split <;> rfl
@[simp] theorem State.assemble_panelH (b : Bit) : (s.assemble b).panelH = s.panelH := by unfold State.assemble; split <;> rfl

theorem State.assemble_acc (b : Bit) : (s.assemble b).acc = if s.completesWord then 0 else s.assembled b := by
  unfold State.assemble; split <;> rfl

theorem State.assemble_fifo (b : Bit) :
    (s.assemble b).fifo = s.fifo ++ if s.completesWord then wordBytes (s.assembled b) else [] := by
  unfold State.assemble; split <;> simp

end Sys2Proof.Machine
end

