-- ==== Sys2Proof/Laws/Wire.lean ====
section
/-! SUPPORT. The small lemmas of the pure functions: the bits of `ofBits`, lengths, and the equations of `chunk`. -/

namespace Sys2Proof.Machine

/-- Bit i of `ofBits f n` is `f i`. -/
@[simp] theorem getLsbD_ofBits (f : Nat → Bool) (n i : Nat) : (ofBits f n).getLsbD i = (decide (i < n) && f i) := by
  induction n with
  | zero => simp [ofBits]
  | succ n ih =>
    rw [ofBits, BitVec.getLsbD_cons, ih]
    by_cases h : i = n
    · simp [h]
    · by_cases h' : i < n
      · simp [h, h', Nat.lt_succ_of_lt h']
      · have : ¬ i < n + 1 := by omega
        simp [h, h', this]

@[simp] theorem getElem_ofBits (f : Nat → Bool) (n i : Nat) (h : i < n) : (ofBits f n)[i] = f i := by
  rw [← BitVec.getLsbD_eq_getElem, getLsbD_ofBits]; simp [h]

@[simp] theorem serLE32_length (v : Word) : (serLE32 v).length = 4 := rfl

@[simp] theorem wordBytes_length (a : Word) : (wordBytes a).length = 4 := rfl

@[simp] theorem encRow_length (row : List Bit) : (encRow row).length = 4 * nb row.length := by
  simp [encRow, List.length_flatMap, Nat.mul_comm]

theorem encFrame_nil : encFrame [] = [] := rfl

theorem encFrame_cons (row : List Pixel) (img : Image) :
    encFrame (row :: img) = encRow (row.map Pixel.bit) ++ encFrame img := rfl

/-- More fuel than bytes changes nothing. -/
theorem chunkLoop_fuel (n : Nat) : ∀ m buf, buf.length ≤ n → n ≤ m → chunkLoop m buf = chunkLoop n buf := by
  induction n with
  | zero =>
    intro m buf h _
    have hb : buf = [] := List.length_eq_zero_iff.mp (by omega)
    cases m <;> simp [chunkLoop, hb]
  | succ n ih =>
    intro m buf h hm
    obtain ⟨m, rfl⟩ : ∃ k, m = k + 1 := ⟨m - 1, by omega⟩
    by_cases hb : buf = []
    · simp [chunkLoop, hb]
    · have : 0 < buf.length := List.length_pos_iff.mpr hb
      simp only [chunkLoop, hb, if_false]
      rw [ih m _ (by simp [Config.pktMax]; omega) (by omega)]

@[simp] theorem chunk_nil : chunk [] = [] := rfl

/-- The recursion of R132. -/
theorem chunk_of_ne_nil (buf : List Byte) (h : buf ≠ []) :
    chunk buf = buf.take 64 :: chunk (buf.drop 64) := by
  have hpos : 0 < buf.length := List.length_pos_iff.mpr h
  obtain ⟨n, hn⟩ : ∃ n, buf.length = n + 1 := ⟨buf.length - 1, by omega⟩
  rw [chunk, hn, chunkLoop]
  simp only [h, if_false, Config.pktMax]
  rw [chunk, chunkLoop_fuel (buf.drop 64).length n _ (by simp) (by simp; omega)]

end Sys2Proof.Machine
end

