-- ==== Sys2Proof/Laws/Ops.lean ====
section
/-! SUPPORT. For each shared operation one lemma that says once everything it can do. -/

namespace Sys2Proof.Machine

variable {s t : State} {body : State → State} {x : Txn}

/-! ### The frame of a command (R186, R188) -/

theorem command_running (h : s.running) : command body s = .next (body s) := by
  simp [command, h.1, h.2]

theorem command_halted (hh : s.hung = none) (hf : s.fault ≠ none) : command body s = .next s := by
  cases h : s.fault with
  | none => exact absurd h hf
  | some _ => simp [command, hh, h]

theorem command_stalled (hh : s.hung ≠ none) : command body s = .fault .stalled := by
  cases h : s.hung with
  | none => exact absurd h hh
  | some _ => simp [command, h]

/-- Everything a command can answer as a next state. -/
theorem command_cases (h : command body s = .next t) :
    s.hung = none ∧ (s.fault ≠ none ∧ t = s ∨ s.running ∧ t = body s) := by
  by_cases hh : s.hung = none
  · by_cases hf : s.fault = none
    · rw [command_running ⟨hh, hf⟩] at h
      exact ⟨hh, .inr ⟨⟨hh, hf⟩, by simpa using h.symm⟩⟩
    · rw [command_halted hh hf] at h
      exact ⟨hh, .inl ⟨hf, by simpa using h.symm⟩⟩
  · rw [command_stalled hh] at h
    cases h

/-- The effect of a command on a block that takes it: its pseudocode. -/
def effect : Instr → State → State
  | .openDev => openEffect
  | .setW w => setWEffect w
  | .setH h => setHEffect h
  | .pix8 p => pix8Effect p
  | .pix1 b => pix1Effect b
  | .byte d => byteEffect d
  | .flush => flushEffect
  | .resetWriteptr => resetWriteptrEffect
  | .panelOnoff v => panelOnoffEffect v
  | .panelBrightness n => panelBrightnessEffect n

/-- Every meaning is its effect in the frame of a command. -/
theorem exec_eq_command (i : Instr) (s : State) : exec i s = command (effect i) s := by cases i <;> rfl

theorem exec_running (i : Instr) (h : s.running) : exec i s = .next (effect i s) := by
  rw [exec_eq_command, command_running h]

theorem exec_cases {i : Instr} (h : exec i s = .next t) :
    s.hung = none ∧ (s.fault ≠ none ∧ t = s ∨ s.running ∧ t = effect i s) :=
  command_cases (by rwa [← exec_eq_command])

/-! ### `requireOpen` -/

theorem requireOpen_closed (h : s.sess = .closed) : requireOpen body s = s.violate .notOpen := by
  simp [requireOpen, h]

theorem requireOpen_open (h : s.sess ≠ .closed) : requireOpen body s = body s := by
  simp [requireOpen, h]

/-! ### `emit` (R52) -/

theorem txOutcome_of_answer {o : TxOutcome} {rest : List TxOutcome} (h : s.txAnswers = o :: rest) :
    s.txOutcome x = o := by
  simp [State.txOutcome, h]

theorem emit_ok (h : s.txOutcome x = .ok) : emit x s = (.ok, (s.record x .ok).update x .ok) := by
  simp [emit, h]

theorem emit_fail (h : s.txOutcome x = .fail) :
    emit x s = (.fail, ((s.record x .fail).update x .fail).raise (.transportFailure (.transaction x))) := by
  simp [emit, h]

theorem emit_stall (h : s.txOutcome x = .stall) :
    emit x s = (.stall, { s.record x .stall with hung := some (.transaction x) }) := by
  simp [emit, h]

/-- Everything `emit` can do. -/
theorem emit_cases (x : Txn) (s : State) :
    emit x s = (.ok, (s.record x .ok).update x .ok) ∨
    emit x s = (.fail, ((s.record x .fail).update x .fail).raise (.transportFailure (.transaction x))) ∨
    emit x s = (.stall, { s.record x .stall with hung := some (.transaction x) }) := by
  cases h : s.txOutcome x with
  | ok => exact .inl (emit_ok h)
  | fail => exact .inr (.inl (emit_fail h))
  | stall => exact .inr (.inr (emit_stall h))

/-! ### `drain` (R131) -/

/-- The loop's turn when fewer than 64 bytes wait. -/
theorem drainLoop_short (n : Nat) (h : s.fifo.length < 64) : drainLoop n s = s := by
  cases n with
  | zero => rfl
  | succ n => simp [drainLoop, Config.pktMax, h]

theorem drain_short (h : s.fifo.length < 64) : drain s = s := drainLoop_short _ h

/-- A turn of the loop whose transfer the device takes. -/
theorem drainLoop_ok {n : Nat} (h : 64 ≤ s.fifo.length) (ho : s.txOutcome s.packet = .ok) :
    drainLoop (n + 1) s =
      drainLoop n { (s.record s.packet .ok).update s.packet .ok with fifo := s.fifo.drop 64 } := by
  have : ¬ s.fifo.length < 64 := by omega
  simp [drainLoop, Config.pktMax, this, emit_ok ho]

/-- A turn of the loop whose transfer does not complete with `ok` is the last. -/
theorem drainLoop_stop {n : Nat} (h : 64 ≤ s.fifo.length) (ho : s.txOutcome s.packet ≠ .ok) :
    drainLoop (n + 1) s = (emit s.packet s).2 := by
  have : ¬ s.fifo.length < 64 := by omega
  rcases hx : s.txOutcome s.packet with _ | _ | _
  · exact absurd hx ho
  · simp [drainLoop, Config.pktMax, this, emit_fail hx]
  · simp [drainLoop, Config.pktMax, this, emit_stall hx]

/-- `drain` on 64 to 127 bytes, all a command can bring it: one transfer, and on `ok` the 64 bytes leave. -/
theorem drain_one (h : 64 ≤ s.fifo.length) (h' : s.fifo.length < 128) :
    drain s =
      if s.txOutcome s.packet = .ok then
        { (s.record s.packet .ok).update s.packet .ok with fifo := s.fifo.drop 64 }
      else (emit s.packet s).2 := by
  have hn : s.fifo.length / Config.pktMax = 0 + 1 := by simp [Config.pktMax]; omega
  rw [drain, hn]
  split
  · next ho => rw [drainLoop_ok h ho, drainLoop_short _ (by simp; omega)]
  · next ho => rw [drainLoop_stop h ho]

/-- Anything that a transfer and a `fifo` cut keep, `drain` keeps. -/
theorem drainLoop_induction (P : State → Prop)
    (hok : ∀ s, P s → 64 ≤ s.fifo.length →
      P { (s.record s.packet .ok).update s.packet .ok with fifo := s.fifo.drop 64 })
    (hstop : ∀ s, P s → 64 ≤ s.fifo.length → s.txOutcome s.packet ≠ .ok → P (emit s.packet s).2) :
    ∀ n s, P s → P (drainLoop n s) := by
  intro n
  induction n with
  | zero => exact fun _ h => h
  | succ n ih =>
    intro s h
    by_cases hl : s.fifo.length < 64
    · rwa [drainLoop_short _ hl]
    · by_cases ho : s.txOutcome s.packet = .ok
      · rw [drainLoop_ok (by omega) ho]
        exact ih _ (hok s h (by omega))
      · rw [drainLoop_stop (by omega) ho]
        exact hstop s h (by omega) ho

/-- Everything `drain` can do with at most 127 bytes: nothing, or one transfer with one of its three outcomes. -/
theorem drain_cases (h : s.fifo.length < 128) :
    s.fifo.length < 64 ∧ drain s = s ∨
    64 ≤ s.fifo.length ∧
      (drain s = { (s.record s.packet .ok).update s.packet .ok with fifo := s.fifo.drop 64 } ∨
        drain s = ((s.record s.packet .fail).update s.packet .fail).raise (.transportFailure (.transaction s.packet)) ∨
        drain s = { s.record s.packet .stall with hung := some (.transaction s.packet) }) := by
  by_cases hl : s.fifo.length < 64
  · exact .inl ⟨hl, drain_short hl⟩
  · refine .inr ⟨by omega, ?_⟩
    rw [drain_one (by omega) h]
    cases ho : s.txOutcome s.packet
    · simp
    · simp [emit_fail ho]
    · simp [emit_stall ho]

/-! ### `requireOpen` and the raster step, once the session and the dimensions are there -/

theorem configured_iff : s.configured ↔ s.W ≠ 0 ∧ s.H ≠ 0 :=
  and_congr (BitVec.pos_iff_ne_zero _) (BitVec.pos_iff_ne_zero _)

theorem rasterStep_open {b : Bit} (h : s.sess ≠ .closed) (hc : s.configured) :
    rasterStep b s = drain (s.assemble b).advance := by
  rw [rasterStep, requireOpen_open h, if_pos hc]

theorem rasterStep_unconfigured {b : Bit} (h : s.sess ≠ .closed) (hc : ¬ s.configured) :
    rasterStep b s = s.violate .emptyImage := by
  rw [rasterStep, requireOpen_open h, if_neg hc]

/-- The registers a pixel writes when it completes its Word. -/
theorem assemble_advance_of_completes (b : Bit) (h : s.completesWord) :
    (s.assemble b).advance = { s with
      acc := 0
      fifo := s.fifo ++ wordBytes (s.assembled b)
      rx := if s.rx = s.W - 1 then 0 else s.rx + 1
      ry := if s.rx = s.W - 1 then (if s.ry = s.H - 1 then 0 else s.ry + 1) else s.ry } := by
  unfold State.assemble
  rw [if_pos h]
  unfold State.advance State.lastColumn
  by_cases hx : s.rx = s.W - 1
  · rw [if_pos hx, if_pos hx, if_pos hx]
  · rw [if_neg hx, if_neg hx, if_neg hx]

/-- The registers a pixel writes when its Word goes on. -/
theorem assemble_advance_of_continues (b : Bit) (h : ¬ s.completesWord) :
    (s.assemble b).advance = { s with acc := s.assembled b, rx := s.rx + 1 } := by
  have hx : ¬ s.rx = s.W - 1 := fun e => h (.inr e)
  unfold State.assemble
  rw [if_neg h]
  unfold State.advance State.lastColumn
  rw [if_neg hx]

/-- A pixel leaves at most four bytes more in the accumulator. -/
theorem assemble_advance_fifo_length (b : Bit) : (s.assemble b).advance.fifo.length ≤ s.fifo.length + 4 := by
  rw [State.advance_fifo, State.assemble_fifo]
  split <;> simp

/-! ### What a command can do -/

/-- Everything the effect of a command can be: to show a property of the state it gives, show it for each case. -/
theorem effect_induction (P : State → Prop) (i : Instr) (s : State)
    (hidle : P s)
    (hviolate : ∀ r, P (s.violate r))
    (hopen : i = .openDev → s.sess = .closed →
      P { s with openAnswers := s.openAnswers.tail, sess := .configured } ∧
      P { s with openAnswers := s.openAnswers.tail, hung := some .openDevice } ∧
      P (State.raise .deviceNotFound { s with openAnswers := s.openAnswers.tail }) ∧
      P (State.raise (.transportFailure .openDevice) { s with openAnswers := s.openAnswers.tail }))
    (hsetW : ∀ w, i = .setW w → s.frameStart → w ≠ 0 → P { s with W := w })
    (hsetH : ∀ h, i = .setH h → s.frameStart → h ≠ 0 → P { s with H := h })
    (hpixel : ∀ b, i.isPixel = true → s.sess ≠ .closed → s.configured → P (drain (s.assemble b).advance))
    (hbyte : ∀ d, i = .byte d → s.sess ≠ .closed → P (drain (s.append [d])))
    (hflush : i = .flush → s.sess ≠ .closed → s.fifo ≠ [] →
      P { (s.record s.remainder .ok).update s.remainder .ok with fifo := [] } ∧
      P (((s.record s.remainder .fail).update s.remainder .fail).raise
        (.transportFailure (.transaction s.remainder))) ∧
      P { s.record s.remainder .stall with hung := some (.transaction s.remainder) })
    (hcontrol : ∀ req val, i.controlRequest = some (req, val) → s.sess ≠ .closed →
      P (emit (ctrlTxn req val) s).2) :
    P (effect i s) := by
  have hpx : ∀ b, i.isPixel = true → P (rasterStep b s) := fun b hi => by
    by_cases hc : s.sess = .closed
    · rw [rasterStep, requireOpen_closed hc]; exact hviolate _
    · by_cases hf : s.configured
      · rw [rasterStep_open hc hf]; exact hpixel b hi hc hf
      · rw [rasterStep_unconfigured hc hf]; exact hviolate _
  have hct : ∀ req val, i.controlRequest = some (req, val) → P (controlTransfer req val s) := fun req val hi => by
    by_cases hc : s.sess = .closed
    · rw [controlTransfer, requireOpen_closed hc]; exact hviolate _
    · rw [controlTransfer, requireOpen_open hc]; exact hcontrol req val hi hc
  cases i with
  | openDev =>
    simp only [effect, openEffect]
    split
    · next hc =>
      obtain ⟨h₁, h₂, h₃, h₄⟩ := hopen rfl hc
      split <;> assumption
    · exact hviolate _
  | setW w =>
    simp only [effect, setWEffect]
    split_ifs with h₁ h₂
    · exact hviolate _
    · exact hviolate _
    · exact hsetW w rfl (Classical.not_not.mp h₁) h₂
  | setH w =>
    simp only [effect, setHEffect]
    split_ifs with h₁ h₂ h₃
    · exact hviolate _
    · exact hviolate _
    · exact hsetH w rfl (Classical.not_not.mp h₁) h₂
    · exact hviolate _
  | pix8 p => exact hpx _ rfl
  | pix1 b => exact hpx _ rfl
  | byte d =>
    simp only [effect, byteEffect]
    by_cases hc : s.sess = .closed
    · rw [requireOpen_closed hc]; exact hviolate _
    · rw [requireOpen_open hc]; exact hbyte d rfl hc
  | flush =>
    simp only [effect, flushEffect]
    by_cases hc : s.sess = .closed
    · rw [requireOpen_closed hc]; exact hviolate _
    · rw [requireOpen_open hc]
      split
      · exact hidle
      · next hne =>
        obtain ⟨h₁, h₂, h₃⟩ := hflush rfl hc hne
        rcases emit_cases s.remainder s with he | he | he <;> rw [he] <;> assumption
  | resetWriteptr => exact hct _ _ rfl
  | panelOnoff v => exact hct _ _ rfl
  | panelBrightness n => exact hct _ _ rfl

/-! ### What a step can do -/

/-- Everything a step can answer as a next state. -/
theorem step_cases (h : step s = .next t) :
    (∃ rest, .reset ∈ s.host ∧ t = restart rest s) ∨
    s.hung = none ∧
      (s.host = [] ∧ t = s ∨
        ∃ cw rest, s.host = .word cw :: rest ∧
          (s.fault ≠ none ∧ t = { s with host := rest } ∨
            s.fault = none ∧
              ((∃ i, decode cw = .cmd i ∧ t = effect i { s with host := rest }) ∨
                t = State.violate (.reservedCommand cw) { s with host := rest }))) := by
  unfold step portStep at h
  split at h
  · split at h
    · next rest hr =>
      refine .inl ⟨rest, ?_, by simpa using h.symm⟩
      generalize s.host = l at hr
      induction l with
      | nil => cases hr
      | cons a l ih =>
        cases a with
        | reset => simp
        | word cw => exact List.mem_cons_of_mem _ (ih hr)
    · cases h
  · next hh =>
    split at h
    · next hs => exact .inr ⟨hh, .inl ⟨hs, by simpa using h.symm⟩⟩
    · next rest hs => exact .inl ⟨rest, by simp [hs], by simpa using h.symm⟩
    · next cw rest hs =>
      refine .inr ⟨hh, .inr ⟨cw, rest, hs, ?_⟩⟩
      unfold present at h
      split at h
      · next i hd =>
        obtain ⟨-, ⟨hf, ht⟩ | ⟨hr, ht⟩⟩ := exec_cases h
        · exact .inl ⟨hf, ht⟩
        · exact .inr ⟨hr.2, .inl ⟨i, hd, ht⟩⟩
      · next w hd =>
        have hw : w = cw := decode_reserved hd
        subst hw
        obtain ⟨-, ⟨hf, ht⟩ | ⟨hr, ht⟩⟩ := command_cases h
        · exact .inl ⟨hf, ht⟩
        · exact .inr ⟨hr.2, .inr ht⟩

end Sys2Proof.Machine
end

