-- ==== Sys2Proof/Laws/PerInstr.lean ====
section
/-! SUPPORT. One lemma per command: its word hits the row of the opcode map that bears its mnemonic (R72). -/

namespace Sys2Proof.Laws.EncodingFitsRow

/-- The command's word hits the row of its mnemonic (R72). -/
def Statement (i : Instr) : Prop := ∃ r ∈ opcodeRows, r.mnemonic = i.mnemonic ∧ r.hit (encode i)

/-- A packed word under a mask that keeps `op` and `req`: only the operand's must-be-0 bits are left to look at. -/
theorem pack_and (op req : Byte) (arg m : Half) (h : arg &&& m = 0) :
    packFields op req arg &&& packFields 0xFF 0xFF m = packFields op req 0 := by
  apply word_eq_of_fields
  · rw [opField, BitVec.extractLsb'_and]
    change opField _ &&& opField _ = opField _
    rw [opField_packFields, opField_packFields, opField_packFields]
    exact BitVec.and_allOnes
  · rw [reqField, BitVec.extractLsb'_and]
    change reqField _ &&& reqField _ = reqField _
    rw [reqField_packFields, reqField_packFields, reqField_packFields]
    exact BitVec.and_allOnes
  · rw [argField, BitVec.extractLsb'_and]
    change argField _ &&& argField _ = argField _
    rw [argField_packFields, argField_packFields, argField_packFields, h]

/-- An 8-bit operand leaves `arg[15:8]` 0. -/
theorem byte_mask (p : Byte) : p.setWidth 16 &&& (0xFF00 : Half) = 0 := by
  revert p; decide

/-- A 1-bit operand leaves `arg[15:1]` 0. -/
theorem bit_mask (b : Bit) : b.setWidth 16 &&& (0xFFFE : Half) = 0 := by
  revert b; decide

theorem openDev : Statement .openDev := ⟨opcodeRows[0], by decide, rfl, by unfold OpcodeRow.hit; decide⟩

theorem setW (w : Half) : Statement (.setW w) :=
  ⟨opcodeRows[1], by decide, rfl, pack_and _ _ w 0 BitVec.and_zero⟩

theorem setH (h : Half) : Statement (.setH h) :=
  ⟨opcodeRows[2], by decide, rfl, pack_and _ _ h 0 BitVec.and_zero⟩

theorem pix8 (p : Byte) : Statement (.pix8 p) :=
  ⟨opcodeRows[3], by decide, rfl, pack_and _ _ _ _ (byte_mask p)⟩

theorem pix1 (b : Bit) : Statement (.pix1 b) :=
  ⟨opcodeRows[4], by decide, rfl, pack_and _ _ _ _ (bit_mask b)⟩

theorem byte (d : Byte) : Statement (.byte d) :=
  ⟨opcodeRows[5], by decide, rfl, pack_and _ _ _ _ (byte_mask d)⟩

theorem flush : Statement .flush := ⟨opcodeRows[6], by decide, rfl, by unfold OpcodeRow.hit; decide⟩

theorem resetWriteptr : Statement .resetWriteptr := ⟨opcodeRows[7], by decide, rfl, by unfold OpcodeRow.hit; decide⟩

theorem panelOnoff (v : Bit) : Statement (.panelOnoff v) :=
  ⟨opcodeRows[8], by decide, rfl, pack_and _ _ _ _ (bit_mask v)⟩

theorem panelBrightness (n : Half) : Statement (.panelBrightness n) :=
  ⟨opcodeRows[9], by decide, rfl, pack_and _ _ n 0 BitVec.and_zero⟩

end Sys2Proof.Laws.EncodingFitsRow
end

