-- ==== Sys2Proof/Machine/Text.lean ====
section
/-! DEFINITION. The text syntax of commands (R80): one command a line, `MNEMONIC operand`, the operand in decimal or in
`0x` hexadecimal, `;` starting a comment. The block never sees text. -/

namespace Sys2Proof.Machine

/-- The text of a command: the mnemonic, and the operand in decimal (R80). -/
def commandText (i : Instr) : String :=
  match i with
  | .openDev => i.mnemonic
  | .setW w => i.mnemonic ++ " " ++ toString w.toNat
  | .setH h => i.mnemonic ++ " " ++ toString h.toNat
  | .pix8 p => i.mnemonic ++ " " ++ toString p.toNat
  | .pix1 b => i.mnemonic ++ " " ++ toString b.toNat
  | .byte d => i.mnemonic ++ " " ++ toString d.toNat
  | .flush => i.mnemonic
  | .resetWriteptr => i.mnemonic
  | .panelOnoff v => i.mnemonic ++ " " ++ toString v.toNat
  | .panelBrightness n => i.mnemonic ++ " " ++ toString n.toNat

/-- A line up to its comment (R80). -/
def uncomment (line : List Char) : List Char := line.takeWhile (· ≠ ';')

/-- The words of a line, what blanks separate. -/
def lineWords : List Char → List (List Char)
  | [] => []
  | c :: rest =>
    if c = ' ' then lineWords rest
    else
      match rest, lineWords rest with
      | d :: _, w :: ws => if d = ' ' then [c] :: w :: ws else (c :: w) :: ws
      | _, ws => [c] :: ws

/-- The value of a digit in the given base. -/
def digitValue (base : Nat) (c : Char) : Option Nat :=
  let v :=
    if '0' ≤ c ∧ c ≤ '9' then c.toNat - '0'.toNat
    else if 'a' ≤ c ∧ c ≤ 'f' then c.toNat - 'a'.toNat + 10
    else if 'A' ≤ c ∧ c ≤ 'F' then c.toNat - 'A'.toNat + 10
    else base
  if v < base then some v else none

/-- The digits of a number, most significant first, `acc` standing before them. -/
def digitsValue (base acc : Nat) : List Char → Option Nat
  | [] => some acc
  | c :: cs => (digitValue base c).bind fun v => digitsValue base (acc * base + v) cs

/-- An operand: decimal, or `0x` hexadecimal (R80). -/
def operandValue : List Char → Option Nat
  | [] => none
  | ['0', 'x'] => none
  | '0' :: 'x' :: ds => digitsValue 16 0 ds
  | ds => digitsValue 10 0 ds

/-- A number as an operand of `n` bits; out of range is no command (R71). -/
def operandBits (n v : Nat) : Option (BitVec n) := if v < 2 ^ n then some (BitVec.ofNat n v) else none

/-- The command of a mnemonic without operand (R80). -/
def plainCommand (m : List Char) : Option Instr :=
  if m = "OPEN".toList then some .openDev
  else if m = "FLUSH".toList then some .flush
  else if m = "RESET_WRITEPTR".toList then some .resetWriteptr
  else none

/-- The command of a mnemonic with an operand (R80, R71). -/
def operandCommand (m : List Char) (v : Nat) : Option Instr :=
  if m = "SET_W".toList then (operandBits 16 v).map Instr.setW
  else if m = "SET_H".toList then (operandBits 16 v).map Instr.setH
  else if m = "PIX8".toList then (operandBits 8 v).map Instr.pix8
  else if m = "PIX1".toList then (operandBits 1 v).map Instr.pix1
  else if m = "BYTE".toList then (operandBits 8 v).map Instr.byte
  else if m = "PANEL_ONOFF".toList then (operandBits 1 v).map Instr.panelOnoff
  else if m = "PANEL_BRIGHTNESS".toList then (operandBits 16 v).map Instr.panelBrightness
  else none

/-- The command of one line of text; `none` of a line that holds no command or is not well formed (R80; log
entry 21). -/
def parseCommand (line : List Char) : Option Instr :=
  match lineWords (uncomment line) with
  | [m] => plainCommand m
  | [m, o] => (operandValue o).bind (operandCommand m)
  | _ => none

end Sys2Proof.Machine
end

