-- ==== Sys2Proof/Tests/Slice0.lean ====
section
/-! SUPPORT. Tests. Expected values are from spec/95_test_vectors.md (its table's letter is named) or from the rule
named. A theorem `witness_<Name>` shows a concrete state and operands that meet the hypotheses of `Obligations.<Name>`,
one conjunct group for each clause, at boundary values. -/

namespace Sys2Proof.Tests

open Machine

/-! ### Helpers -/

/-- The state after reset with `PANEL_H` not set. -/
def base : State := { State.reset with panelH := none }

/-- A session is open and the environment has settled the next answers. -/
def opened (answers : List TxOutcome) : State := { base with sess := .configured, txAnswers := answers }

/-- An open session, dimensions w by h, the next pixel at column x, and n bytes waiting. -/
def raster (w h x : Half) (n : Nat) (answers : List TxOutcome) : State :=
  { opened answers with W := w, H := h, rx := x, fifo := List.replicate n 0xFF }

/-- A halted block. -/
def halted : State := { base with fault := some (.preconditionViolation .notOpen) }

/-- A block in a stalled transfer. -/
def stalled : State := { base with hung := some .openDevice }

/-- The answer is a next state with property `p`. -/
def gives (o : Host.Outcome State Fault Refusal) (p : State → Bool) : Bool :=
  match o with
  | .next t => p t
  | .fault _ => false
  | .refused _ => false

/-! ### Well-formedness: each line of R71's "must be 0", and words of no command -/

theorem test_wf_accepts_a_command : (RawCommand.wellFormed ⟨0x20, 0x00, 0x00FF⟩) = true := by decide
theorem test_wf_open_req : (RawCommand.wellFormed ⟨0x01, 0x01, 0x0000⟩) = false := by decide
theorem test_wf_open_arg : (RawCommand.wellFormed ⟨0x01, 0x00, 0x0001⟩) = false := by decide
theorem test_wf_setW_req : (RawCommand.wellFormed ⟨0x10, 0x01, 0x0008⟩) = false := by decide
theorem test_wf_setH_req : (RawCommand.wellFormed ⟨0x11, 0x01, 0x0008⟩) = false := by decide
theorem test_wf_pix8_arg : (RawCommand.wellFormed ⟨0x20, 0x00, 0x0100⟩) = false := by decide
theorem test_wf_pix8_req : (RawCommand.wellFormed ⟨0x20, 0x80, 0x0000⟩) = false := by decide
theorem test_wf_pix1_arg : (RawCommand.wellFormed ⟨0x21, 0x00, 0x0002⟩) = false := by decide
theorem test_wf_pix1_req : (RawCommand.wellFormed ⟨0x21, 0x01, 0x0001⟩) = false := by decide
theorem test_wf_byte_arg : (RawCommand.wellFormed ⟨0x30, 0x00, 0x0100⟩) = false := by decide
theorem test_wf_byte_req : (RawCommand.wellFormed ⟨0x30, 0x01, 0x0000⟩) = false := by decide
theorem test_wf_flush_arg : (RawCommand.wellFormed ⟨0x31, 0x00, 0x0001⟩) = false := by decide
theorem test_wf_flush_req : (RawCommand.wellFormed ⟨0x31, 0x01, 0x0000⟩) = false := by decide
theorem test_wf_resetWriteptr_arg : (RawCommand.wellFormed ⟨0x40, 0x00, 0x0001⟩) = false := by decide
theorem test_wf_panelOnoff_arg : (RawCommand.wellFormed ⟨0x40, 0x01, 0x0002⟩) = false := by decide
theorem test_wf_control_req : (RawCommand.wellFormed ⟨0x40, 0x03, 0x0000⟩) = false := by decide
theorem test_wf_no_command : (RawCommand.wellFormed ⟨0x41, 0x00, 0x0000⟩) = false := by decide
theorem test_wf_commands : (Instr.wellFormed (.setW 0)) = true := by decide

/-! ### Decoding: each word written out from R70 to R72 (table Q) -/

theorem test_decode_openDev : decode 0b00000001_00000000_0000000000000000 = .cmd .openDev := by decide
theorem test_decode_setW : decode 0b00010000_00000000_0000000000101000 = .cmd (.setW 40) := by decide
theorem test_decode_setH : decode 0b00010001_00000000_1111111111111111 = .cmd (.setH 65535) := by decide
theorem test_decode_pix8 : decode 0b00100000_00000000_0000000011001000 = .cmd (.pix8 200) := by decide
theorem test_decode_pix1 : decode 0b00100001_00000000_0000000000000001 = .cmd (.pix1 1) := by decide
theorem test_decode_byte : decode 0b00110000_00000000_0000000010101010 = .cmd (.byte 0xAA) := by decide
theorem test_decode_flush : decode 0b00110001_00000000_0000000000000000 = .cmd .flush := by decide
theorem test_decode_resetWriteptr : decode 0b01000000_00000000_0000000000000000 = .cmd .resetWriteptr := by decide
theorem test_decode_panelOnoff : decode 0b01000000_00000001_0000000000000001 = .cmd (.panelOnoff 1) := by decide
theorem test_decode_panelBrightness :
    decode 0b01000000_00000010_1111111111111111 = .cmd (.panelBrightness 65535) := by decide

/-- The reserved words of table Q. -/
theorem test_decode_reserved :
    decode 0x00000000 = .reserved 0x00000000 ∧ decode 0x01000001 = .reserved 0x01000001 ∧
    decode 0x01010000 = .reserved 0x01010000 ∧ decode 0x10010008 = .reserved 0x10010008 ∧
    decode 0x20000100 = .reserved 0x20000100 ∧ decode 0x21000002 = .reserved 0x21000002 ∧
    decode 0x30000100 = .reserved 0x30000100 ∧ decode 0x31000001 = .reserved 0x31000001 ∧
    decode 0x40000001 = .reserved 0x40000001 ∧ decode 0x40010002 = .reserved 0x40010002 ∧
    decode 0x40030000 = .reserved 0x40030000 ∧ decode 0x41000000 = .reserved 0x41000000 ∧
    decode 0x02000000 = .reserved 0x02000000 ∧ decode 0xFFFFFFFF = .reserved 0xFFFFFFFF := by
  refine ⟨?_, ?_, ?_, ?_, ?_, ?_, ?_, ?_, ?_, ?_, ?_, ?_, ?_, ?_⟩ <;> decide

/-- The encoder gives the words of program P1 and of table K. -/
theorem test_encode : encode (.setW 8) = 0x10000008 ∧ encode (.setH 1) = 0x11000001 ∧ encode .openDev = 0x01000000 ∧
    encode (.pix1 1) = 0x21000001 ∧ encode .flush = 0x31000000 ∧ encode (.panelBrightness 100) = 0x40020064 := by
  decide

theorem test_decodeTableWord : decodeTableWord 32 0x40020064 = some (.panelBrightness 100) ∧
    decodeTableWord 32 0x40030000 = none := by decide

/-- The first step after reset with a word placed runs it (R27, R133: `NotOpen` for `BYTE`). -/
theorem test_withFetchWord : gives (step (State.reset.withFetchWord 32 0x300000AA)) (fun t =>
    t.host == [] && t.fault == some (.preconditionViolation .notOpen)) = true := by decide

/-! ### One step of each command -/

/-- Table Z, Z1. -/
theorem test_setW_zero : gives (exec (.setW 0) base) (fun t =>
    t.W == 0 && t.fault == some (.preconditionViolation .emptyImage)) = true := by decide

/-- Table Z, Z8: the width is not changed in the middle of a frame. -/
theorem test_setW_midframe : gives (exec (.setW 16) (raster 8 20 1 0 [])) (fun t =>
    t.W == 8 && t.rx == 1 && t.fault == some (.preconditionViolation .midFrameReconfig)) = true := by decide

/-- Table Z, Z2: `EmptyImage`, not `HeightMismatch`. -/
theorem test_setH_zero : gives (exec (.setH 0) { base with panelH := some 20 }) (fun t =>
    t.H == 0 && t.fault == some (.preconditionViolation .emptyImage)) = true := by decide

/-- Table Z, Z3. -/
theorem test_setH_mismatch : gives (exec (.setH 16) { base with panelH := some 20 }) (fun t =>
    t.H == 0 && t.fault == some (.preconditionViolation .heightMismatch)) = true := by decide

/-- Table X, X3: the third pixel of a 1 by 3 image, `PIX8 128`. -/
theorem test_pix8_last_pixel : gives (exec (.pix8 128) { raster 1 3 0 0 [] with ry := 2 }) (fun t =>
    t.fifo == [0x00, 0x00, 0x00, 0x80] && t.rx == 0 && t.ry == 0 && t.acc == 0) = true := by decide

/-- Table Z, Z6: the session is checked before the dimensions. -/
theorem test_pix8_closed : gives (exec (.pix8 255) base) (fun t =>
    t.fault == some (.preconditionViolation .notOpen)) = true := by decide

/-- Table X, X1: pixel number 31 of a row of 33 fills the Word. -/
theorem test_pix1_full_word : gives (exec (.pix1 1) { raster 33 1 31 0 [] with acc := 0x7FFFFFFF }) (fun t =>
    t.fifo == [0xFF, 0xFF, 0xFF, 0xFF] && t.rx == 32 && t.acc == 0) = true := by decide

/-- Table X, X5: a packet boundary inside a Word. -/
theorem test_pix1_packet : gives (exec (.pix1 0) { raster 8 1 7 62 [.ok] with acc := 0x55 }) (fun t =>
    t.fifo == [0x00, 0xAA] && t.out == [(.bulk 0x01 (List.replicate 62 0xFF ++ [0x00, 0x00]), .ok)]) = true := by
  decide

/-- Table F, L = 64: the 64th byte is sent at once. -/
theorem test_byte_sends : gives (exec (.byte 0x3F) { raster 0 0 0 63 [.ok] with wptr := some 0 }) (fun t =>
    t.fifo == [] && t.wptr == some 64 && t.sess == .streaming) = true := by decide

/-- Program P5's rule on a failed packet (R131): it stays in the accumulator. -/
theorem test_byte_fails : gives (exec (.byte 0xFF) (raster 0 0 0 63 [.fail])) (fun t =>
    t.fifo == List.replicate 64 0xFF && t.wptr == none && t.fault.isSome && t.sess == .configured) = true := by decide

/-- Table F, L = 130: the last two bytes go as a short packet. -/
theorem test_flush_short : gives (exec .flush { opened [.ok] with fifo := [0x80, 0x81], wptr := some 128 }) (fun t =>
    t.fifo == [] && t.wptr == some 130 && t.out == [(.bulk 0x01 [0x80, 0x81], .ok)]) = true := by decide

/-- Table F: a second `FLUSH` emits nothing. -/
theorem test_flush_empty : gives (exec .flush (opened [.fail])) (fun t => t == opened [.fail]) = true := by decide

/-- Table K, K9, `ok`. -/
theorem test_openDev : gives (exec .openDev { base with openAnswers := [.ok] }) (fun t =>
    t.sess == .configured && t.fault == none && t.out == []) = true := by decide

/-- Table Z, Z10. -/
theorem test_openDev_twice : gives (exec .openDev (opened [])) (fun t =>
    t.sess == .configured && t.fault == some (.preconditionViolation .alreadyOpen)) = true := by decide

/-- Table K, K1. -/
theorem test_resetWriteptr : gives (exec .resetWriteptr (opened [.ok])) (fun t =>
    t.out == [(.ctrl 0x40 0x00 0x0000 0x0000, .ok)] && t.sess == .reset && t.wptr == some 0 && t.panelOn == none) =
    true := by decide

/-- Table Z, Z16, and program P8. -/
theorem test_resetWriteptr_stall : gives (exec .resetWriteptr (opened [.stall])) (fun t =>
    t.out == [(.ctrl 0x40 0x00 0x0000 0x0000, .stall)] && t.fault == none && t.sess == .configured &&
      t.wptr == none && t.hung.isSome) = true := by decide

/-- Table K, K2. -/
theorem test_panelOnoff : gives (exec (.panelOnoff 1) (opened [.ok])) (fun t =>
    t.out == [(.ctrl 0x40 0x01 0x0001 0x0000, .ok)] && t.panelOn == some 1 && t.wptr == some 0) = true := by decide

/-- Table K, K3. -/
theorem test_panelBrightness : gives (exec (.panelBrightness 100) (opened [.ok])) (fun t =>
    t.out == [(.ctrl 0x40 0x02 0x0064 0x0000, .ok)] && t.bright == some 100 && t.sess == .reset) = true := by decide

/-- Table K, K7. -/
theorem test_panelBrightness_fails : gives (exec (.panelBrightness 0) { opened [.fail] with
    sess := .reset, bright := some 65535, wptr := some 0 }) (fun t =>
    t.bright == none && t.wptr == none && t.sess == .reset &&
      t.fault == some (.transportFailure (.transaction (.ctrl 0x40 0x02 0x0000 0x0000)))) = true := by decide

/-! ### The pure functions -/

/-- Table E, E3, E10 and E6. -/
theorem test_encFrame :
    encFrame [List.replicate 40 (.bilevel 1)] = [0xFF, 0xFF, 0xFF, 0xFF, 0x00, 0x00, 0x00, 0xFF] ∧
    encFrame [[0, 255, 128, 127, 200, 10, 130, 127, 128, 0, 255, 129].map Pixel.intensity,
      List.replicate 12 (.intensity 255)] = [0x00, 0x00, 0xB0, 0x6A, 0x00, 0x00, 0xF0, 0xFF] ∧
    encFrame [List.replicate 32 (.bilevel 0) ++ [.bilevel 1]] = [0, 0, 0, 0, 0, 0, 0, 0x80] := by decide

/-- Table B. -/
theorem test_bitRev32 : bitRev32 0x12345678 = 0x1E6A2C48 ∧ bitRev32 0xDEADBEEF = 0xF77DB57B ∧
    serLE32 0x12345678 = [0x78, 0x56, 0x34, 0x12] ∧ wordBytes 0x00000D56 = [0x00, 0x00, 0xB0, 0x6A] := by decide

/-- Table M. -/
theorem test_pixelOffset : pixelOffset 40 39 19 = 159 ∧ pixelBitIndex 39 = 0 ∧ pixelOffset 128 100 5 = 95 ∧
    pixelBitIndex 100 = 3 := by decide

set_option maxRecDepth 8000 in
/-- S2: 160 bytes make packets of 64, 64 and 32. -/
theorem test_chunk : (chunk (List.replicate 160 0x00)).map List.length = [64, 64, 32] := by decide

/-- S3: the setup packet of brightness level 100. -/
theorem test_setupPacket : setupPacket (.ctrl 0x40 0x02 100 0) = some [0x40, 0x02, 0x64, 0, 0, 0, 0, 0] := by decide

/-- Lines of R80's example, and an operand out of range. -/
theorem test_parseCommand : parseCommand "PIX8 200          ; intensity 200".toList = some (.pix8 200) ∧
    parseCommand "BYTE 0xAA".toList = some (.byte 0xAA) ∧ parseCommand "FLUSH".toList = some .flush ∧
    parseCommand "PANEL_BRIGHTNESS 100".toList = some (.panelBrightness 100) ∧
    parseCommand "PIX1 2".toList = none := by decide

/-! ### Witnesses: encoding and the step -/

theorem witness_EncodeOfDecode : decode 0x10000000 = .cmd (.setW 0) := by decide

theorem witness_WordSelectsRowByMask : (⟨"PIX8", 0x20000000, 0xFFFFFF00⟩ : OpcodeRow) ∈ opcodeRows ∧
    (0x200000FF : Word) &&& 0xFFFFFF00 = 0x20000000 := by decide

theorem witness_ReservedWordRaises :
    let s := { base with host := [.word 0x01000001, .word 0] }
    s.hung = none ∧ s.fault = none ∧ s.host = .word 0x01000001 :: [.word 0] ∧
      decode 0x01000001 = .reserved 0x01000001 := by decide

theorem witness_StepRunsDecodedCommand :
    let s := { base with host := [.word 0x10000028] }
    s.hung = none ∧ s.host = .word 0x10000028 :: [] ∧ decode 0x10000028 = .cmd (.setW 40) := by decide

theorem witness_HaltedBlockDoesNothing :
    let s := { halted with host := [.word 0x00000000] }
    s.hung = none ∧ s.fault ≠ none ∧ s.host = .word 0x00000000 :: [] := by decide

theorem witness_StalledBlockExecutesNothing :
    let s := { stalled with host := [.word 0x10000005] }
    s.hung ≠ none ∧ ∀ x ∈ s.host, x ≠ .reset := by decide

/-- A running block at a reset; a stalled block with a word it never took before the reset. -/
theorem witness_HostResetGivesResetState :
    ({ base with host := [.reset] }.host = [] ++ .reset :: [] ∧ ([] : List HostInput) = []) ∧
    (let s := { stalled with host := [.word 0, .reset, .reset] }
     s.host = [.word 0] ++ .reset :: [.reset] ∧ (∀ x ∈ [HostInput.word 0], x ≠ .reset) ∧ s.hung ≠ none) := by decide

theorem witness_WaitsForTheHost : base.hung = none ∧ base.host = [] := by decide

/-- A transaction answered `stall`, and an `OPEN` answered `stall`. -/
theorem witness_EveryCommandCompletes :
    ((opened [.stall]).hung = none ∧ gives (exec .resetWriteptr (opened [.stall])) (fun t =>
      t.hung == some (.transaction (.ctrl 0x40 0x00 0x0000 0x0000))) = true) ∧
    (base.hung = none ∧ gives (exec .openDev { base with openAnswers := [.stall] }) (fun t =>
      t.hung == some .openDevice) = true) := by decide

/-! ### Witnesses: ENC -/

/-- Mid-frame by the column alone and by the row alone; a zero width; the greatest width. -/
theorem witness_SetWidthEffect :
    (let s := raster 8 20 1 0 []; s.hung = none ∧ s.fault = none ∧ ¬ (s.rx = 0 ∧ s.ry = 0)) ∧
    (let s := { raster 8 20 0 0 [] with ry := 1 }; s.hung = none ∧ s.fault = none ∧ ¬ (s.rx = 0 ∧ s.ry = 0)) ∧
    (base.hung = none ∧ base.fault = none ∧ base.rx = 0 ∧ base.ry = 0 ∧ (0 : Half) = 0 ∧ (65535 : Half) ≠ 0) := by
  decide

/-- As for the width; and with `PANEL_H` 20, heights 16 and 20. -/
theorem witness_SetHeightEffect :
    (let s := raster 8 20 1 0 []; s.hung = none ∧ s.fault = none ∧ ¬ (s.rx = 0 ∧ s.ry = 0)) ∧
    (let s := { base with panelH := some 20 }
     s.hung = none ∧ s.fault = none ∧ s.rx = 0 ∧ s.ry = 0 ∧ (0 : Half) = 0 ∧
      ((16 : Half) ≠ 0 ∧ ¬ (s.panelH = none ∨ s.panelH = some 16)) ∧
      ((20 : Half) ≠ 0 ∧ (s.panelH = none ∨ s.panelH = some 20))) ∧
    (base.rx = 0 ∧ base.ry = 0 ∧ (65535 : Half) ≠ 0 ∧ base.panelH = none) := by decide

/-- No session; a session with W 0, and with only H 0. -/
theorem witness_PixelPreconditions :
    (base.hung = none ∧ base.fault = none ∧ base.sess = .closed) ∧
    (let s := opened []; s.hung = none ∧ s.fault = none ∧ s.sess ≠ .closed ∧ s.W = 0) ∧
    (let s := raster 1 0 0 0 []; s.hung = none ∧ s.fault = none ∧ s.sess ≠ .closed ∧ s.W ≠ 0 ∧ s.H = 0) := by decide

/-- Lane 30 of a Word, 63 bytes waiting, the widest row. -/
theorem witness_PixelInsideWord :
    let s := raster 65535 1 30 63 []
    s.hung = none ∧ s.fault = none ∧ s.sess ≠ .closed ∧ s.W ≠ 0 ∧ s.H ≠ 0 ∧ s.fifo.length ≤ 63 ∧
      s.rx.toNat % 32 ≠ 31 ∧ s.rx ≠ s.W - 1 := by decide

/-- A full Word inside a row; a padded Word at its end; 59 bytes waiting. -/
theorem witness_PixelCompletesWord :
    (let s := raster 33 1 31 59 []
     s.hung = none ∧ s.fault = none ∧ s.sess ≠ .closed ∧ s.W ≠ 0 ∧ s.H ≠ 0 ∧ s.fifo.length ≤ 59 ∧
      s.rx.toNat % 32 = 31) ∧
    (let s := raster 1 1 0 59 []
     s.hung = none ∧ s.fault = none ∧ s.sess ≠ .closed ∧ s.W ≠ 0 ∧ s.H ≠ 0 ∧ s.fifo.length ≤ 59 ∧
      s.rx = s.W - 1) := by decide

/-- The packet that pixel bit `b` completes. -/
def packetAfter (b : Bit) (s : State) : Txn :=
  .bulk 0x01 ((s.fifo ++ serLE32 (bitRev32 (s.acc ||| (b.setWidth 32 <<< (s.rx.toNat % 32))))).take 64)

/-- 60 bytes waiting and `ok`, 63 and `fail`, 62 and `stall`. -/
theorem witness_PixelCompletesPacket :
    (let s := raster 33 1 31 60 [.ok]
     s.hung = none ∧ s.fault = none ∧ s.sess ≠ .closed ∧ s.W ≠ 0 ∧ s.H ≠ 0 ∧ 60 ≤ s.fifo.length ∧
      s.fifo.length ≤ 63 ∧ s.rx.toNat % 32 = 31 ∧ s.txOutcome (packetAfter 1 s) = .ok) ∧
    (let s := raster 1 1 0 63 [.fail]
     s.hung = none ∧ s.fault = none ∧ s.sess ≠ .closed ∧ s.W ≠ 0 ∧ s.H ≠ 0 ∧ 60 ≤ s.fifo.length ∧
      s.fifo.length ≤ 63 ∧ s.rx = s.W - 1 ∧ s.txOutcome (packetAfter 1 s) = .fail) ∧
    (let s := raster 8 1 7 62 [.stall]
     s.hung = none ∧ s.fault = none ∧ s.sess ≠ .closed ∧ s.W ≠ 0 ∧ s.H ≠ 0 ∧ 60 ≤ s.fifo.length ∧
      s.fifo.length ≤ 63 ∧ s.rx = s.W - 1 ∧ s.txOutcome (packetAfter 1 s) = .stall) := by decide

theorem witness_RowBlockCount : 0 < nb 1 ∧ (0 < nb 33 ∧ 0 + 1 < nb 33) ∧ 1 < nb 33 ∧ 0 < 1 ∧ 0 < 65535 := by decide

theorem witness_AssembledLanes : 31 < 32 ∧ 32 * 0 + 31 < (List.replicate 32 (1 : Bit)).length ∧
    ¬ 32 * 1 + 0 < (List.replicate 32 (1 : Bit)).length := by decide

theorem witness_BitReversalLaws : 0 < 32 ∧ 31 < 32 := by decide

theorem witness_SerialisationLittleEndian : 3 < 4 ∧ 7 < 8 := by decide

/-- A 1 by 1 image. -/
theorem isSize_one (px : Pixel) : Image.isSize [[px]] 1 1 := ⟨by decide, by decide, rfl, by simp⟩

theorem witness_WireBufferLength : Image.isSize [[.bilevel 1]] 1 1 := isSize_one _

theorem witness_WireBufferLayout : Image.isSize [[.bilevel 1]] 1 1 ∧
    Image.pix [[.bilevel 1]] 0 0 = some (.bilevel 1) ∧ 3 < 1 * nb 1 * 4 ∧ 7 < 8 :=
  ⟨isSize_one _, rfl, by decide, by decide⟩

/-- All off (intensity 127, the threshold); all on with W = 32. -/
theorem witness_UniformImages :
    (Image.isSize [[.intensity 127]] 1 1 ∧ ∀ row ∈ ([[.intensity 127]] : Image), ∀ px ∈ row, px.bit = 0) ∧
    (Image.isSize [List.replicate 32 (.bilevel 1)] 32 1 ∧
      (∀ row ∈ ([List.replicate 32 (.bilevel 1)] : Image), ∀ px ∈ row, px.bit = 1) ∧ 32 ∣ 32) :=
  ⟨⟨isSize_one _, by decide⟩, ⟨by decide, by decide, rfl, by decide⟩, by decide, by decide⟩

/-! ### Witnesses: PBT -/

theorem witness_ChunkLaws :
    let buf : List Byte := List.replicate 65 0xFF
    List.replicate 64 0xFF ∈ (chunk buf).dropLast ∧ [0xFF] ∈ chunk buf ∧ [0xFF] ∈ (chunk buf).getLast? ∧
      (chunk buf)[1]? = some [0xFF] := by decide

set_option maxRecDepth 8000 in
/-- 130 bytes wait: two packets are due; both taken, the first fails, the second stalls. -/
theorem witness_DrainSendsFullPackets :
    let s (answers : List TxOutcome) := raster 0 0 0 130 answers
    ((s []).fault = none ∧ 2 = (s []).fifo.length / 64) ∧
    (s [.ok, .ok]).txAnswers = List.replicate 2 .ok ++ [] ∧
    (0 < 2 ∧ (s [.fail]).txAnswers = List.replicate 0 .ok ++ .fail :: []) ∧
    (1 < 2 ∧ (s [.ok, .stall]).txAnswers = List.replicate 1 .ok ++ .stall :: []) := by decide

theorem witness_ByteEffect :
    (base.hung = none ∧ base.fault = none ∧ base.fifo.length ≤ 63 ∧ base.sess = .closed) ∧
    (let s := raster 0 0 0 62 []; s.hung = none ∧ s.fault = none ∧ s.sess ≠ .closed ∧ s.fifo.length < 63) ∧
    ∀ o ∈ [TxOutcome.ok, .fail],
      let s := raster 0 0 0 63 [o]
      s.hung = none ∧ s.fault = none ∧ s.sess ≠ .closed ∧ s.fifo.length = 63 ∧
        s.txOutcome (.bulk 0x01 (s.fifo ++ [0xAA])) = o := by decide

/-- One byte waiting and `ok`, 63 and `fail`. -/
theorem witness_FlushEffect :
    (base.hung = none ∧ base.fault = none ∧ base.fifo.length ≤ 63 ∧ base.sess = .closed) ∧
    (let s := opened []; s.hung = none ∧ s.fault = none ∧ s.fifo.length ≤ 63 ∧ s.sess ≠ .closed ∧ s.fifo = []) ∧
    (let s := raster 0 0 0 1 [.ok]
     s.hung = none ∧ s.fault = none ∧ s.fifo.length ≤ 63 ∧ s.sess ≠ .closed ∧ s.fifo ≠ [] ∧
      s.txOutcome (.bulk 0x01 s.fifo) = .ok) ∧
    (let s := raster 0 0 0 63 [.fail]
     s.hung = none ∧ s.fault = none ∧ s.fifo.length ≤ 63 ∧ s.sess ≠ .closed ∧ s.fifo ≠ [] ∧
      s.txOutcome (.bulk 0x01 s.fifo) = .fail) := by decide

/-! ### Witnesses: DCP -/

theorem witness_OpenEffect :
    (let s := opened []; s.hung = none ∧ s.fault = none ∧ s.sess ≠ .closed) ∧
    ∀ o ∈ [OpenOutcome.ok, .notFound, .fail],
      let s := { base with openAnswers := [o] }
      s.hung = none ∧ s.fault = none ∧ s.sess = .closed ∧ s.openOutcome = o := by decide

/-- No session; a session, and each outcome for the transaction `x` (any `x`: the answer is settled). -/
theorem controlWitness (x : Txn) :
    (base.hung = none ∧ base.fault = none ∧ base.sess = .closed) ∧
    ∀ o, (opened [o]).hung = none ∧ (opened [o]).fault = none ∧ (opened [o]).sess ≠ .closed ∧
      (opened [o]).txOutcome x = o :=
  ⟨by decide, fun _ => ⟨rfl, rfl, nofun, rfl⟩⟩

theorem witness_ResetWriteptrEffect :
    (base.hung = none ∧ base.fault = none ∧ base.sess = .closed) ∧
    ∀ o, (opened [o]).hung = none ∧ (opened [o]).fault = none ∧ (opened [o]).sess ≠ .closed ∧
      (opened [o]).txOutcome (.ctrl 0x40 0x00 0x0000 0x0000) = o := controlWitness _

theorem witness_PanelOnoffEffect :
    (base.hung = none ∧ base.fault = none ∧ base.sess = .closed) ∧
    ∀ o, (opened [o]).hung = none ∧ (opened [o]).fault = none ∧ (opened [o]).sess ≠ .closed ∧
      (opened [o]).txOutcome (.ctrl 0x40 0x01 ((1 : Bit).setWidth 16) 0x0000) = o := controlWitness _

theorem witness_PanelBrightnessEffect :
    (base.hung = none ∧ base.fault = none ∧ base.sess = .closed) ∧
    ∀ o, (opened [o]).hung = none ∧ (opened [o]).fault = none ∧ (opened [o]).sess ≠ .closed ∧
      (opened [o]).txOutcome (.ctrl 0x40 0x02 65535 0x0000) = o := controlWitness _

/-- In the middle of a frame, with bytes waiting. -/
theorem witness_ControlLeavesEncoderAndFramer :
    let s := raster 40 20 5 63 [.ok]
    (Instr.panelBrightness 65535).controlRequest = some (0x02, 65535) ∧ s.hung = none ∧ s.fault = none ∧
      s.sess ≠ .closed := by decide

/-- `OPEN` answered `ok` and others with no session, `OPEN` with one, a command that emits nothing, one whose transaction
is `ok`, one whose transaction fails; each completes. -/
theorem witness_SessionTransitions :
    (base.hung = none ∧ base.fault = none ∧ base.fifo.length ≤ 63 ∧ base.sess = .closed ∧
      Instr.setW 1 ≠ .openDev ∧ Instr.flush.needsDevice = true) ∧
    gives (exec .openDev { base with openAnswers := [.ok] }) (fun t => t.hung == none) = true ∧
    gives (exec (.setW 1) base) (fun t => t.hung == none) = true ∧
    gives (exec .flush base) (fun t => t.hung == none) = true ∧
    ((opened []).sess ≠ .closed ∧ (opened []).fifo.length ≤ 63) ∧
    gives (exec .openDev (opened [])) (fun t => t.hung == none) = true ∧
    gives (exec .flush (opened [])) (fun t => t.hung == none && t.out == []) = true ∧
    gives (exec (.byte 1) (raster 0 0 0 63 [.ok])) (fun t =>
      t.hung == none && t.out == [] ++ [(.bulk 0x01 (List.replicate 63 0xFF ++ [1]), .ok)]) = true ∧
    gives (exec .resetWriteptr (opened [.fail])) (fun t =>
      t.hung == none && t.out == [] ++ [(.ctrl 0x40 0x00 0x0000 0x0000, .fail)]) = true := by decide

theorem witness_DeviceCommandsNeedSession :
    (Instr.byte 0).needsDevice = true ∧ base.hung = none ∧ base.fault = none ∧ base.sess = .closed := by decide

/-- 63 bytes waiting at a `BYTE`; one and 63 at a `FLUSH`; each control command; `OPEN`. -/
theorem witness_StallHangsTheBlock :
    (∀ n ∈ [1, 63], let s := raster 0 0 0 n [.stall]
      s.hung = none ∧ s.fault = none ∧ s.sess ≠ .closed ∧ s.fifo ≠ [] ∧ s.fifo.length ≤ 63 ∧
        s.txOutcome (.bulk 0x01 s.fifo) = .stall) ∧
    (let s := raster 0 0 0 63 [.stall]
     s.fifo.length = 63 ∧ s.txOutcome (.bulk 0x01 (s.fifo ++ [0xAA])) = .stall) ∧
    (∀ i ∈ [Instr.resetWriteptr, .panelOnoff 1, .panelBrightness 65535],
      i.controlRequest.all fun r => (opened [.stall]).txOutcome (.ctrl 0x40 r.1 r.2 0x0000) == .stall) ∧
    (let s := { base with openAnswers := [.stall] }
     s.hung = none ∧ s.fault = none ∧ s.sess = .closed ∧ s.openOutcome = .stall) := by decide

/-! ### Witnesses: the whole machine -/

/-- In the middle of a row, three lanes taken, 63 bytes waiting, one transaction made, and a pixel next. -/
def running : State :=
  { raster 40 20 3 63 [.ok] with
    sess := .reset, acc := 0b101, wptr := some 0, out := [(.ctrl 0x40 0x00 0x0000 0x0000, .ok)]
    host := [.word 0x21000001] }

theorem running_tidy : running.Tidy where
  fifo_short := by decide
  fifo_bound := by decide
  unconfigured := by decide
  raster := by decide
  acc_clear := by decide

theorem running_history : running.HistoryOk where
  legal := by simp [running, Txn.legal, Config.bmRequestType, Config.wIndex, Config.reqResetWriteptr, Config.resetWValue]
  all_ok_but_last := by decide
  running_ok := by decide
  failed_last := nofun
  hung_last := nofun
  hung_no_fault := by decide
  closed_silent := by decide

theorem running_shadows : running.ShadowsOfOut where
  wptr_eq := by decide
  panelOn_eq := by decide
  bright_eq := by decide

theorem witness_TidyKeptByEveryStep : running.Tidy ∧ ∃ t, step running = .next t := ⟨running_tidy, _, rfl⟩

theorem witness_HistoryKeptByEveryStep : running.Tidy ∧ running.HistoryOk ∧ ∃ t, step running = .next t :=
  ⟨running_tidy, running_history, _, rfl⟩

theorem witness_ShadowsAreFunctionsOfOut : running.ShadowsOfOut ∧ ∃ t, step running = .next t :=
  ⟨running_shadows, _, rfl⟩

theorem witness_PreconditionViolationChangesNothing : ∃ t, exec (.setW 0) base = .next t ∧ base.fault = none ∧
    t.fault = some (.preconditionViolation .emptyImage) := ⟨_, rfl, rfl, rfl⟩

theorem witness_AtMostOneLegalTransaction : (∃ t, exec (.byte 0) (raster 0 0 0 63 [.stall]) = .next t) ∧
    (raster 0 0 0 63 [.stall]).fifo.length ≤ 63 := ⟨⟨_, rfl⟩, by decide⟩

/-- `OPEN` is none of the writers each clause excepts. -/
theorem witness_WrittenOnlyBy : (∃ t, exec .openDev { base with openAnswers := [.ok] } = .next t) ∧
    (∀ w, Instr.openDev ≠ .setW w) ∧ (∀ h, Instr.openDev ≠ .setH h) ∧ Instr.openDev.isPixel = false ∧
    Instr.openDev.isAppending = false ∧ Instr.openDev ≠ .flush ∧ (∀ v, Instr.openDev ≠ .panelOnoff v) ∧
    (∀ n, Instr.openDev ≠ .panelBrightness n) ∧ Instr.openDev.needsDevice = false :=
  ⟨⟨_, rfl⟩, nofun, nofun, rfl, rfl, nofun, nofun, nofun, rfl⟩

/-- A halted block given a word, and a halted block reset. -/
theorem witness_FaultClearedOnlyByReset :
    (∃ t, step { halted with host := [.word 0x01000000] } = .next t) ∧
    (∃ t, step { halted with host := [.reset] } = .next t) ∧ halted.fault ≠ none := ⟨⟨_, rfl⟩, ⟨_, rfl⟩, by decide⟩

theorem witness_StreamKeepsEveryByte : ∃ t, exec (.pix1 1) (raster 8 1 7 62 [.ok]) = .next t := ⟨_, rfl⟩

theorem witness_WholeWordsWithoutByte : (∀ d, Instr.pix1 1 ≠ .byte d) ∧
    (∃ t, exec (.pix1 1) (raster 8 1 7 60 [.ok]) = .next t) ∧ 4 ∣ (raster 8 1 7 60 [.ok]).fifo.length ∧
    ∀ e ∈ (raster 8 1 7 60 [.ok]).out, 4 ∣ e.1.payload.length := ⟨nofun, ⟨_, rfl⟩, by decide, by decide⟩

/-! ### Witnesses: command sequences -/

/-- A 1 by 2 image of both pixel kinds. -/
def img12 : Image := [[.bilevel 1], [.intensity 200]]

theorem img12_isSize : img12.isSize 1 2 := ⟨by decide, by decide, rfl, by decide⟩

/-- 60 bytes wait, so that the frame's first Word completes a packet; one row done, and both. -/
theorem witness_FrameComputesEncFrame :
    let s := raster 1 2 0 60 [.ok]
    img12.isSize s.W.toNat s.H.toNat ∧ (1 ≤ s.H.toNat ∧ 2 ≤ s.H.toNat) ∧ s.hung = none ∧ s.fault = none ∧
      s.sess ≠ .closed ∧ s.rx = 0 ∧ s.ry = 0 ∧ s.acc = 0 ∧ s.fifo.length ≤ 63 ∧
      (1 = (s.fifo.length + 1 * nb s.W.toNat * 4) / 64 ∧ 1 = (s.fifo.length + 2 * nb s.W.toNat * 4) / 64) ∧
      s.txAnswers = List.replicate 1 .ok ++ [] := ⟨img12_isSize, by decide⟩

theorem witness_AppendsThenFlushSendChunks :
    let s := raster 1 2 0 0 [.ok]
    let cs : List Instr := [.pix1 1, .byte 7, .pix8 200]
    (∀ i ∈ cs, i.isAppending = true) ∧ s.hung = none ∧ s.fault = none ∧ s.sess ≠ .closed ∧ s.fifo = [] ∧
      ∃ t, runCommands (cs ++ [.flush]) s = .next t ∧ t.fault = none ∧ t.hung = none :=
  ⟨by decide, rfl, rfl, nofun, rfl, _, rfl, rfl, rfl⟩

/-- 65 bytes, two packets; and no bytes, none. -/
theorem witness_BytesThenFlushSendBuffer :
    (opened []).hung = none ∧ (opened []).fault = none ∧ (opened []).sess ≠ .closed ∧ (opened []).fifo = [] ∧
    (opened [.ok, .ok]).txAnswers = List.replicate (((List.replicate 65 (0 : Byte)).length + 63) / 64) .ok ++ [] ∧
    (opened []).txAnswers = List.replicate ((([] : List Byte).length + 63) / 64) .ok ++ [] := by decide

theorem witness_SendImageDeliversFrameAtZero :
    let s := raster 1 2 0 0 [.ok, .ok]
    img12.isSize s.W.toNat s.H.toNat ∧ s.hung = none ∧ s.fault = none ∧ s.sess ≠ .closed ∧ s.rx = 0 ∧ s.ry = 0 ∧
      s.acc = 0 ∧ s.fifo = [] ∧
      s.txAnswers = List.replicate (1 + ((encFrame img12).length + 63) / 64) .ok ++ [] := ⟨img12_isSize, by decide⟩

/-- Two frames (the second at index 1); and none. -/
theorem witness_PlayMovieFramesFollowOn :
    let s := raster 1 2 0 0 [.ok, .ok, .ok]
    (∀ img ∈ [img12, img12], img.isSize s.W.toNat s.H.toNat) ∧ [img12, img12][1]? = some img12 ∧ s.hung = none ∧ s.fault = none ∧ s.sess ≠ .closed ∧
      s.rx = 0 ∧ s.ry = 0 ∧ s.acc = 0 ∧ s.fifo = [] ∧ 8 = s.H.toNat * nb s.W.toNat * 4 ∧
      s.txAnswers = List.replicate (1 + 2 * ((8 + 63) / 64)) .ok ++ [] ∧
      s.txAnswers = List.replicate (1 + 0 * ((8 + 63) / 64)) .ok ++ [.ok, .ok] :=
  ⟨fun _ h => by
    rcases List.mem_pair.mp h with rfl | rfl <;> exact img12_isSize, by decide⟩

/-- A frame of 2 by 2: three bytes are too few, four are enough. -/
theorem witness_RawFrameIsRowMajor : 0 < 2 ∧ ([1, 2, 3] : List Byte).length < 2 * 2 ∧
    2 * 2 ≤ ([1, 2, 3, 4] : List Byte).length ∧ 1 < 2 := by decide

end Sys2Proof.Tests
end

section
/-! The state elements: their reset values (10_state.md, R27). -/

namespace Sys2Proof.Machine

/-- Settles O12: each element's value is the one the literal `State.reset` gives its field, in the order of the
statement. -/
theorem resetValues : Obligations.ResetValues := by
  unfold Obligations.ResetValues
  exact ⟨rfl, rfl, rfl, rfl, rfl, rfl, rfl, rfl, rfl, rfl, rfl, rfl⟩

end Sys2Proof.Machine
end

section
/-! The opcode map (30_encoding.md, R72): the words a row selects are the words that decode to its command. -/

namespace Sys2Proof

/-! ### Bits under a mask -/

/-- Bits a mask keeps are 0 if the masked value is. -/
theorem extractLsb'_eq_zero_of_and {w k n : Nat} {x m : BitVec w} (hm : m.extractLsb' k n = BitVec.allOnes n)
    (h : x &&& m = 0) : x.extractLsb' k n = 0 := by
  simpa [BitVec.extractLsb'_and, hm] using congrArg (BitVec.extractLsb' k n) h

/-- A value whose bits from `k` up are 0 is its low `k` bits, widened again. -/
theorem setWidth_low_of_high_zero {w k n : Nat} {x : BitVec w} (hw : w ≤ k + n) (h : x.extractLsb' k n = 0) :
    (x.extractLsb' 0 k).setWidth w = x := by
  apply BitVec.eq_of_getLsbD_eq
  intro i hi
  by_cases hk : i < k
  · simp [hi, hk]
  · have hbit := congrArg (·.getLsbD (i - k)) h
    have hx : x.getLsbD i = false := by simpa [show i - k < n by omega, show k + (i - k) = i by omega] using hbit
    simp [hk, hx]

/-! ### A selected word decodes to the row's command -/

/-- The converse of `pack_and`: what a row that keeps `op` and `req` says of the fields of a word it selects. -/
theorem fields_of_and_pack {cw : Word} {op req : Byte} {m : Half}
    (h : cw &&& packFields 0xFF 0xFF m = packFields op req 0) :
    opField cw = op ∧ reqField cw = req ∧ argField cw &&& m = 0 := by
  have hop : opField cw &&& opField (packFields 0xFF 0xFF m) = opField (packFields op req 0) :=
    BitVec.extractLsb'_and.symm.trans (congrArg opField h)
  have hreq : reqField cw &&& reqField (packFields 0xFF 0xFF m) = reqField (packFields op req 0) :=
    BitVec.extractLsb'_and.symm.trans (congrArg reqField h)
  have harg : argField cw &&& argField (packFields 0xFF 0xFF m) = argField (packFields op req 0) :=
    BitVec.extractLsb'_and.symm.trans (congrArg argField h)
  simp only [opField_packFields, reqField_packFields, argField_packFields] at hop hreq harg
  exact ⟨BitVec.and_allOnes.symm.trans hop, BitVec.and_allOnes.symm.trans hreq, harg⟩

/-- A word that hits a row decodes to a command of the row's mnemonic: the row's mask keeps the bits the decoder's test
for that command looks at. -/
theorem decode_of_hit {cw : Word} {r : OpcodeRow} (hr : r ∈ opcodeRows) (h : r.hit cw) :
    ∃ i, decode cw = .cmd i ∧ i.mnemonic = r.mnemonic := by
  have arg_zero {arg : Half} (ha : arg &&& 0xFFFF = 0) : arg = 0 := BitVec.and_allOnes.symm.trans ha
  have high_byte_zero {arg : Half} (ha : arg &&& 0xFF00 = 0) : arg.extractLsb' 8 8 = 0 :=
    extractLsb'_eq_zero_of_and (by decide) ha
  have high_bits_zero {arg : Half} (ha : arg &&& 0xFFFE = 0) : arg.extractLsb' 1 15 = 0 :=
    extractLsb'_eq_zero_of_and (by decide) ha
  simp only [opcodeRows, List.mem_cons, List.not_mem_nil, or_false] at hr
  rcases hr with rfl | rfl | rfl | rfl | rfl | rfl | rfl | rfl | rfl | rfl
  · obtain ⟨ho, hq, ha⟩ := fields_of_and_pack (op := 0x01) (req := 0) (m := 0xFFFF) h
    exact ⟨.openDev, by simp [decode, ho, hq, arg_zero ha], rfl⟩
  · obtain ⟨ho, hq, -⟩ := fields_of_and_pack (op := 0x10) (req := 0) (m := 0) h
    exact ⟨.setW (argField cw), by simp [decode, ho, hq], rfl⟩
  · obtain ⟨ho, hq, -⟩ := fields_of_and_pack (op := 0x11) (req := 0) (m := 0) h
    exact ⟨.setH (argField cw), by simp [decode, ho, hq], rfl⟩
  · obtain ⟨ho, hq, ha⟩ := fields_of_and_pack (op := 0x20) (req := 0) (m := 0xFF00) h
    exact ⟨.pix8 (argByte (argField cw)), by simp [decode, ho, hq, high_byte_zero ha], rfl⟩
  · obtain ⟨ho, hq, ha⟩ := fields_of_and_pack (op := 0x21) (req := 0) (m := 0xFFFE) h
    exact ⟨.pix1 (argBit (argField cw)), by simp [decode, ho, hq, high_bits_zero ha], rfl⟩
  · obtain ⟨ho, hq, ha⟩ := fields_of_and_pack (op := 0x30) (req := 0) (m := 0xFF00) h
    exact ⟨.byte (argByte (argField cw)), by simp [decode, ho, hq, high_byte_zero ha], rfl⟩
  · obtain ⟨ho, hq, ha⟩ := fields_of_and_pack (op := 0x31) (req := 0) (m := 0xFFFF) h
    exact ⟨.flush, by simp [decode, ho, hq, arg_zero ha], rfl⟩
  · obtain ⟨ho, hq, ha⟩ := fields_of_and_pack (op := 0x40) (req := 0) (m := 0xFFFF) h
    exact ⟨.resetWriteptr, by simp [decode, ho, hq, arg_zero ha], rfl⟩
  · obtain ⟨ho, hq, ha⟩ := fields_of_and_pack (op := 0x40) (req := 1) (m := 0xFFFE) h
    exact ⟨.panelOnoff (argBit (argField cw)), by simp [decode, ho, hq, high_bits_zero ha], rfl⟩
  · obtain ⟨ho, hq, -⟩ := fields_of_and_pack (op := 0x40) (req := 2) (m := 0) h
    exact ⟨.panelBrightness (argField cw), by simp [decode, ho, hq], rfl⟩

/-! ### A word that decodes is selected by its command's row -/

/-- A word with these fields is their packing. -/
theorem packFields_of_fields {cw : Word} {op req : Byte} {arg : Half}
    (h : opField cw = op ∧ reqField cw = req ∧ argField cw = arg) : packFields op req arg = cw := by
  obtain ⟨rfl, rfl, rfl⟩ := h
  exact packFields_fields cw

/-- The decoder loses nothing of a legal word: the bits its answer does not carry are those its test fixes. -/
theorem encode_eq_of_decode {cw : Word} {i : Instr} (h : decode cw = .cmd i) : encode i = cw := by
  have low_byte {arg : Half} (ha : arg.extractLsb' 8 8 = 0) : arg = (argByte arg).setWidth 16 :=
    (setWidth_low_of_high_zero (by decide) ha).symm
  have low_bit {arg : Half} (ha : arg.extractLsb' 1 15 = 0) : arg = (argBit arg).setWidth 16 :=
    (setWidth_low_of_high_zero (by decide) ha).symm
  revert h
  fun_cases decode cw <;> intro h <;> cases h <;> apply packFields_of_fields
  next openDev => exact openDev
  next setW => exact setW.imp_right (⟨·, rfl⟩)
  next setH => exact setH.imp_right (⟨·, rfl⟩)
  next pix8 => exact pix8.imp_right (.imp_right low_byte)
  next pix1 => exact pix1.imp_right (.imp_right low_bit)
  next byte => exact byte.imp_right (.imp_right low_byte)
  next flush => exact flush
  next resetWriteptr => exact resetWriteptr
  next panelOnoff => exact panelOnoff.imp_right (.imp_right low_bit)
  next panelBrightness => exact panelBrightness.imp_right (⟨·, rfl⟩)

/-- The word of every command hits the row of its mnemonic. -/
theorem encoding_fits_row : ∀ i : Instr, Laws.EncodingFitsRow.Statement i
  | .openDev => Laws.EncodingFitsRow.openDev
  | .setW w => Laws.EncodingFitsRow.setW w
  | .setH h => Laws.EncodingFitsRow.setH h
  | .pix8 p => Laws.EncodingFitsRow.pix8 p
  | .pix1 b => Laws.EncodingFitsRow.pix1 b
  | .byte d => Laws.EncodingFitsRow.byte d
  | .flush => Laws.EncodingFitsRow.flush
  | .resetWriteptr => Laws.EncodingFitsRow.resetWriteptr
  | .panelOnoff v => Laws.EncodingFitsRow.panelOnoff v
  | .panelBrightness n => Laws.EncodingFitsRow.panelBrightness n

/-- No two rows of the opcode map bear the same mnemonic. -/
theorem row_eq_of_mnemonic : ∀ r ∈ opcodeRows, ∀ r' ∈ opcodeRows, r.mnemonic = r'.mnemonic → r = r' := by decide

/-- A word that decodes to a command hits the row of the command's mnemonic. -/
theorem hit_of_decode {cw : Word} {r : OpcodeRow} {i : Instr} (hr : r ∈ opcodeRows) (hd : decode cw = .cmd i)
    (hm : i.mnemonic = r.mnemonic) : r.hit cw := by
  obtain ⟨r', hr', hm', hit⟩ := encoding_fits_row i
  rw [encode_eq_of_decode hd] at hit
  rwa [row_eq_of_mnemonic r hr r' hr' (hm.symm.trans hm'.symm)]

/-- Two rows hit by one word are the same row: the word decodes to one command, and that has one mnemonic. -/
theorem row_eq_of_hit {cw : Word} {r r' : OpcodeRow} (hr : r ∈ opcodeRows) (hr' : r' ∈ opcodeRows) (h : r.hit cw)
    (h' : r'.hit cw) : r = r' := by
  obtain ⟨i, hd, hm⟩ := decode_of_hit hr h
  obtain ⟨i', hd', hm'⟩ := decode_of_hit hr' h'
  obtain rfl : i = i' := Decoded.cmd.inj (hd.symm.trans hd')
  exact row_eq_of_mnemonic r hr r' hr' (hm.symm.trans hm')

/-- Settles O3: a selected word passes the decoder's test for the row's command; a decoded word is the encoding of its
command, which hits the command's row; and the decoder answers one command. -/
theorem wordSelectsRowByMask : Obligations.WordSelectsRowByMask := by
  unfold Obligations.WordSelectsRowByMask
  exact ⟨fun _ _ hr => ⟨decode_of_hit hr, fun ⟨_, hd, hm⟩ => hit_of_decode hr hd hm⟩,
    fun _ _ hr _ hr' => row_eq_of_hit hr hr'⟩

end Sys2Proof
end

section
/-! The encoder's dimensions (40_encoder.md, R108, R109): what `SET_W` and `SET_H` do at and off the start of a
frame. -/

namespace Sys2Proof.Machine

variable {s : State} {w h : Half}

/-- A running block answers a command with the state its pseudocode gives. -/
theorem exec_of_effect_eq {i : Instr} {t : State} (hs : s.running) (he : effect i s = t) : exec i s = .next t :=
  (exec_running i hs).trans (congrArg _ he)

/-- A command whose pseudocode raises a violation changes the latch and nothing else. -/
theorem exec_of_effect_eq_violate {i : Instr} {r : Reason} (hs : s.running) (he : effect i s = s.violate r) :
    exec i s = .next { s with fault := some (.preconditionViolation r) } :=
  exec_of_effect_eq hs (he.trans (s.violate_of_none r hs.2))

/-! ### `SET_W` (R108) -/

theorem decode_packFields_setW (w : Half) : decode (packFields 0x10 0x00 w) = .cmd (.setW w) := by
  simp [decode]

theorem setWEffect_midFrame (hm : s.midFrame) : setWEffect w s = s.violate .midFrameReconfig := if_pos hm

theorem setWEffect_zero (hf : s.frameStart) : setWEffect 0 s = s.violate .emptyImage := by
  rw [setWEffect, if_neg (not_not_intro hf), if_pos rfl]

theorem setWEffect_of_ne_zero (hf : s.frameStart) (hw : w ≠ 0) : setWEffect w s = { s with W := w } := by
  rw [setWEffect, if_neg (not_not_intro hf), if_neg hw]

/-- Settles O14: the violations in R108's order, then the write. -/
theorem setWidthEffect : Obligations.SetWidthEffect := by
  unfold Obligations.SetWidthEffect
  refine fun w => ⟨decode_packFields_setW w, fun s hhung hfault => ?_⟩
  have hs : s.running := ⟨hhung, hfault⟩
  refine ⟨fun hm => ?midFrame, fun hf hw => ?zero, fun hf hw => ?write⟩
  case midFrame => exact exec_of_effect_eq_violate hs (setWEffect_midFrame hm)
  case zero => subst hw; exact exec_of_effect_eq_violate hs (setWEffect_zero hf)
  case write => exact exec_of_effect_eq hs (setWEffect_of_ne_zero hf hw)

/-! ### `SET_H` (R109) -/

theorem decode_packFields_setH (h : Half) : decode (packFields 0x11 0x00 h) = .cmd (.setH h) := by
  simp [decode]

theorem setHEffect_midFrame (hm : s.midFrame) : setHEffect h s = s.violate .midFrameReconfig := if_pos hm

theorem setHEffect_zero (hf : s.frameStart) : setHEffect 0 s = s.violate .emptyImage := by
  rw [setHEffect, if_neg (not_not_intro hf), if_pos rfl]

theorem setHEffect_mismatch (hf : s.frameStart) (hh : h ≠ 0) (hp : ¬ (s.panelH = none ∨ s.panelH = some h)) :
    setHEffect h s = s.violate .heightMismatch := by
  rw [setHEffect, if_neg (not_not_intro hf), if_neg hh, if_neg hp]

theorem setHEffect_of_ne_zero (hf : s.frameStart) (hh : h ≠ 0) (hp : s.panelH = none ∨ s.panelH = some h) :
    setHEffect h s = { s with H := h } := by
  rw [setHEffect, if_neg (not_not_intro hf), if_neg hh, if_pos hp]

/-- Settles O15: the violations in R109's order, then the write. -/
theorem setHeightEffect : Obligations.SetHeightEffect := by
  unfold Obligations.SetHeightEffect
  refine fun h => ⟨decode_packFields_setH h, fun s hhung hfault => ?_⟩
  have hs : s.running := ⟨hhung, hfault⟩
  refine ⟨fun hm => ?midFrame, fun hf hh => ?zero, fun hf hh hp => ?mismatch, fun hf hh hp => ?write⟩
  case midFrame => exact exec_of_effect_eq_violate hs (setHEffect_midFrame hm)
  case zero => subst hh; exact exec_of_effect_eq_violate hs (setHEffect_zero hf)
  case mismatch => exact exec_of_effect_eq_violate hs (setHEffect_mismatch hf hh hp)
  case write => exact exec_of_effect_eq hs (setHEffect_of_ne_zero hf hh hp)

end Sys2Proof.Machine
end

section
/-! The encoder's pure functions (40_encoder.md sections 1 to 4, R100 to R107), in the order of Machine/Wire.lean. -/

namespace Sys2Proof.Machine

/-! ### The threshold (R100) -/

/-- The order of bytes is that of their unsigned values, and `THRESH` is 127. -/
theorem threshold_eq (p : Byte) : threshold p = if 127 < p.toNat then 1 else 0 := rfl

/-- Settles O21: an intensity's bit is its threshold, a bilevel pixel's the pixel. -/
theorem thresholdLaw : Obligations.ThresholdLaw := by
  unfold Obligations.ThresholdLaw
  exact ⟨threshold_eq, fun _ => rfl⟩

/-! ### Row blocks (R101) -/

/-- `n` row blocks hold a row if and only if their 32 n columns are enough. -/
theorem nb_le_iff {w n : Nat} : nb w ≤ n ↔ w ≤ 32 * n := by
  unfold nb; omega

/-- Row block j exists if and only if its first column does. -/
theorem lt_nb_iff {w j : Nat} : j < nb w ↔ 32 * j < w := by
  simpa using not_congr (nb_le_iff (w := w) (n := j))

/-- `nb` is the ceiling: both are the least n with w ≤ 32 n. -/
theorem nb_eq_ceil (w : Nat) : nb w = ⌈(w : ℚ) / 32⌉₊ := by
  refine eq_of_forall_ge_iff fun n => ?_
  rw [nb_le_iff, Nat.ceil_le, div_le_iff₀ (by norm_num), mul_comm]
  exact_mod_cast Iff.rfl

/-- The columns of row block j, as an interval. -/
theorem column_in_block_iff {w j x : Nat} (hj : j < nb w) :
    x < w ∧ x / 32 = j ↔ 32 * j ≤ x ∧ x ≤ min (32 * j + 31) (w - 1) := by
  have hfirst : 32 * j < w := lt_nb_iff.mp hj
  omega

/-- A row block that another one follows ends with its 32nd column. -/
theorem block_end_of_succ_lt {w j : Nat} (hj : j + 1 < nb w) : min (32 * j + 31) (w - 1) = 32 * j + 31 := by
  have hnext : 32 * (j + 1) < w := lt_nb_iff.mp hj
  omega

/-- The last row block holds 1 to 32 columns. -/
theorem last_block_size {w : Nat} (hw : 0 < w) : 1 ≤ w - 32 * (nb w - 1) ∧ w - 32 * (nb w - 1) ≤ 32 := by
  have hlast : 32 * (nb w - 1) < w := lt_nb_iff.mp (Nat.sub_one_lt (lt_nb_iff.mpr hw).ne')
  have henough : w ≤ 32 * nb w := nb_le_iff.mp le_rfl
  omega

/-- Settles O22, from the first column of each row block (`lt_nb_iff`). -/
theorem rowBlockCount : Obligations.RowBlockCount := by
  unfold Obligations.RowBlockCount
  exact fun w => ⟨rfl, nb_eq_ceil w, fun _ hj => ⟨fun _ => column_in_block_iff hj, block_end_of_succ_lt⟩,
    last_block_size⟩

/-! ### Word assembly (R102) -/

/-- A lane is the pixel of its column; beyond the row, the 0 that pads it. -/
theorem getLsbD_asm (row : List Bit) (j : Nat) {dx : Nat} (hdx : dx < 32) :
    (asm row j).getLsbD dx = (row.getD (32 * j + dx) 0 == 1) := by
  simp [asm, hdx]

/-- Settles O23: a column of the row, then one beyond it. -/
theorem assembledLanes : Obligations.AssembledLanes := by
  unfold Obligations.AssembledLanes
  intro row j dx hdx
  rw [getLsbD_asm row j hdx]
  split
  next hcol => rw [List.getD_eq_getElem _ _ hcol]; rfl
  next hcol => rw [List.getD_eq_default _ _ (Nat.le_of_not_lt hcol)]; rfl

/-! ### Bit reversal (R103) -/

theorem getLsbD_bitRev32 (a : Word) {i : Nat} (hi : i < 32) : (bitRev32 a).getLsbD i = a.getLsbD (31 - i) := by
  simp [bitRev32, hi]

/-- Reversing the bit index twice gives it back. -/
@[simp] theorem bitRev32_bitRev32 (a : Word) : bitRev32 (bitRev32 a) = a := by
  apply BitVec.eq_of_getLsbD_eq
  intro i hi
  calc (bitRev32 (bitRev32 a)).getLsbD i
      = (bitRev32 a).getLsbD (31 - i) := getLsbD_bitRev32 _ hi
    _ = a.getLsbD (31 - (31 - i)) := getLsbD_bitRev32 a (by omega)
    _ = a.getLsbD i := by rw [Nat.sub_sub_self (by omega)]

/-- Settles O24. -/
theorem bitReversalLaws : Obligations.BitReversalLaws := by
  unfold Obligations.BitReversalLaws
  exact ⟨fun a _ => getLsbD_bitRev32 a, bitRev32_bitRev32, by decide, by decide, by decide⟩

/-! ### Serialisation (R104) -/

/-- Byte i of the serialisation is bits 8 i to 8 i + 7 of the Word. -/
theorem getD_serLE32 (v : Word) {i : Nat} (hi : i < 4) : (serLE32 v).getD i 0 = v.extractLsb' (8 * i) 8 := by
  match i, hi with
  | 0, _ | 1, _ | 2, _ | 3, _ => rfl

/-- Settles O25: the bits of the slice that byte i is. -/
theorem serialisationLittleEndian : Obligations.SerialisationLittleEndian := by
  unfold Obligations.SerialisationLittleEndian
  intro v
  refine ⟨serLE32_length v, fun i t hi ht => ?_⟩
  rw [getD_serLE32 v hi, BitVec.getLsbD_extractLsb']
  simp [ht]

/-! ### The frame (R106, R107) -/

/-- Every row of width w gives NB(w) Words of four bytes. -/
theorem encFrame_length {img : Image} {w : Nat} (hw : ∀ row ∈ img, row.length = w) :
    (encFrame img).length = img.length * nb w * 4 := by
  induction img with
  | nil => simp [encFrame_nil]
  | cons row img ih =>
    obtain ⟨hrow, himg⟩ := List.forall_mem_cons.mp hw
    rw [encFrame_cons, List.length_append, encRow_length, List.length_map, hrow, ih himg, List.length_cons]
    ring

/-- Settles O26: the rows' lengths added up, and `nb` as the ceiling. -/
theorem wireBufferLength : Obligations.WireBufferLength := by
  unfold Obligations.WireBufferLength
  rintro img w h ⟨-, -, rfl, hw⟩
  rw [encFrame_length hw, ← nb_eq_ceil]
  exact ⟨rfl, rfl, dvd_mul_left _ _⟩

end Sys2Proof.Machine
end

section
/-! The framer (41_framer.md, R132 to R134): the packet sequence of a buffer, and what `BYTE` and `FLUSH` do. -/

namespace Sys2Proof.Machine

/-! ### The packet sequence of a buffer (R132) -/

/-- The recursion of R132, with its end. -/
theorem chunk_eq (buf : List Byte) :
    chunk buf = if buf = [] then [] else buf.take 64 :: chunk (buf.drop 64) := by
  split
  next hnil => rw [hnil, chunk_nil]
  next hne => exact chunk_of_ne_nil buf hne

/-- Packet i is there if and only if its first byte is, and is the 64 bytes from there on, or what is left of them. -/
theorem getElem?_chunk (buf : List Byte) (i : Nat) :
    (chunk buf)[i]? = if 64 * i < buf.length then some ((buf.drop (64 * i)).take 64) else none := by
  induction i generalizing buf with
  | zero =>
    by_cases hne : buf = []
    · simp [hne]
    · simp [chunk_of_ne_nil buf hne, List.length_pos_iff, hne]
  | succ i ih =>
    by_cases hne : buf = []
    · simp [hne]
    · have hfirst : 64 * i < buf.length - 64 ↔ 64 * (i + 1) < buf.length := by omega
      have hbyte : 64 + 64 * i = 64 * (i + 1) := by omega
      rw [chunk_of_ne_nil buf hne, List.getElem?_cons_succ, ih, List.length_drop, List.drop_drop, hbyte]
      simp only [hfirst]

/-- What is known of a packet at a place: its first byte is in the buffer, and which bytes it is. -/
theorem getElem?_chunk_eq_some_iff {buf p : List Byte} {i : Nat} :
    (chunk buf)[i]? = some p ↔ 64 * i < buf.length ∧ p = (buf.drop (64 * i)).take 64 := by
  rw [getElem?_chunk, Option.ite_none_right_eq_some, Option.some_inj, eq_comm (b := p)]

/-- A packet holds 64 bytes, or all that is left from its place on. -/
theorem packet_length {buf p : List Byte} {i : Nat} (hp : (chunk buf)[i]? = some p) :
    p.length = min 64 (buf.length - 64 * i) := by
  obtain ⟨-, rfl⟩ := getElem?_chunk_eq_some_iff.mp hp
  rw [List.length_take, List.length_drop]

/-- `n` packets hold a buffer if and only if their 64 n bytes are enough. -/
theorem chunk_length_le_iff {buf : List Byte} {n : Nat} : (chunk buf).length ≤ n ↔ buf.length ≤ 64 * n := by
  rw [← List.getElem?_eq_none_iff, getElem?_chunk]
  simp

/-- The number of packets is the ceiling of a 64th of the buffer's length. -/
theorem chunk_length (buf : List Byte) : (chunk buf).length = (buf.length + 63) / 64 := by
  refine eq_of_forall_ge_iff fun n => ?_
  rw [chunk_length_le_iff]
  omega

theorem packet_bounds {buf p : List Byte} (hp : p ∈ chunk buf) : 1 ≤ p.length ∧ p.length ≤ 64 := by
  obtain ⟨i, hi⟩ := List.mem_iff_getElem?.mp hp
  have hlen := packet_length hi
  obtain ⟨hfirst, -⟩ := getElem?_chunk_eq_some_iff.mp hi
  omega

/-- A packet that another one follows is full. -/
theorem packet_length_of_mem_dropLast {buf p : List Byte} (hp : p ∈ (chunk buf).dropLast) : p.length = 64 := by
  obtain ⟨i, hi⟩ := List.mem_iff_getElem?.mp hp
  rw [List.getElem?_dropLast] at hi
  split at hi
  next hlast =>
    have hlen := packet_length hi
    rw [chunk_length] at hlast
    omega
  next => cases hi

/-- The last packet is what the full ones leave. -/
theorem last_packet_length {buf p : List Byte} (hp : p ∈ (chunk buf).getLast?) :
    p.length = if buf.length % 64 = 0 then 64 else buf.length % 64 := by
  rw [Option.mem_def, List.getLast?_eq_getElem?, chunk_length] at hp
  have hlen := packet_length hp
  obtain ⟨hfirst, -⟩ := getElem?_chunk_eq_some_iff.mp hp
  split <;> omega

/-- The packets hold every byte of the buffer in its order: with a packet cut off, the rest is a shorter buffer. -/
theorem chunk_flatten (buf : List Byte) : (chunk buf).flatten = buf := by
  by_cases hne : buf = []
  · rw [hne, chunk_nil, List.flatten_nil]
  · rw [chunk_of_ne_nil buf hne, List.flatten_cons, chunk_flatten (buf.drop 64), List.take_append_drop]
termination_by buf.length
decreasing_by
  have hpos : 0 < buf.length := List.length_pos_iff.mpr hne
  rw [List.length_drop]
  omega

/-- Settles O29: all but the concatenation and the recursion is read off the packet at each place
(`getElem?_chunk`). -/
theorem chunkLaws : Obligations.ChunkLaws := by
  unfold Obligations.ChunkLaws
  exact fun buf => ⟨chunk_length buf, fun _ => packet_length_of_mem_dropLast, fun _ => packet_bounds,
    fun _ => last_packet_length, chunk_flatten buf, fun _ _ hp => (getElem?_chunk_eq_some_iff.mp hp).2, chunk_eq buf⟩

/-! ### A bulk transfer (R52, R159) -/

section BulkTransfer

variable {s : State} {ep : Byte} {bs : List Byte}

/-- What a bulk transfer writes when the device takes it. -/
theorem emit_bulk_ok (ho : s.txOutcome (.bulk ep bs) = .ok) :
    emit (.bulk ep bs) s = (.ok, { s with
      txAnswers := s.txAnswers.tail
      out := s.out ++ [(.bulk ep bs, .ok)]
      wptr := s.wptr.map (· + bs.length)
      sess := .streaming }) := emit_ok ho

/-- What a bulk transfer writes when the transport reports an error: `fifo` keeps the bytes. -/
theorem emit_bulk_fail (hf : s.fault = none) (ho : s.txOutcome (.bulk ep bs) = .fail) :
    emit (.bulk ep bs) s = (.fail, { s with
      txAnswers := s.txAnswers.tail
      out := s.out ++ [(.bulk ep bs, .fail)]
      wptr := none
      fault := some (.transportFailure (.transaction (.bulk ep bs))) }) :=
  (emit_fail ho).trans (congrArg _ (State.raise_of_none _ _ hf))

end BulkTransfer

variable {s : State} {d : Byte}

/-! ### `Drain` on one full packet (R131) -/

/-- With 64 bytes in the accumulator the packet is all of them. -/
theorem packet_eq_of_length (h : s.fifo.length = 64) : s.packet = .bulk 0x01 s.fifo :=
  congrArg _ (List.take_of_length_le h.le)

/-- `Drain` on one full packet that the device takes. -/
theorem drain_packet_ok (h : s.fifo.length = 64) (ho : s.txOutcome (.bulk 0x01 s.fifo) = .ok) :
    drain s = { s with
      txAnswers := s.txAnswers.tail
      out := s.out ++ [(.bulk 0x01 s.fifo, .ok)]
      wptr := s.wptr.map (· + 64)
      sess := .streaming
      fifo := [] } := by
  rw [drain_one h.ge (by omega), packet_eq_of_length h, if_pos ho, List.drop_of_length_le h.le, ← h]
  rfl

/-- `Drain` on one full packet that fails. -/
theorem drain_packet_fail (hf : s.fault = none) (h : s.fifo.length = 64)
    (ho : s.txOutcome (.bulk 0x01 s.fifo) = .fail) :
    drain s = { s with
      txAnswers := s.txAnswers.tail
      out := s.out ++ [(.bulk 0x01 s.fifo, .fail)]
      wptr := none
      fault := some (.transportFailure (.transaction (.bulk 0x01 s.fifo))) } := by
  have hne : s.txOutcome (.bulk 0x01 s.fifo) ≠ .ok := ho.trans_ne nofun
  rw [drain_one h.ge (by omega), packet_eq_of_length h, if_neg hne, emit_bulk_fail hf ho]

/-! ### `BYTE` (R133) -/

/-- An operand of eight bits, widened, leaves `arg[15:8]` 0 and is read back from `arg[7:0]`. -/
theorem decode_packFields_byte (d : Byte) : decode (packFields 0x30 0x00 (d.setWidth 16)) = .cmd (.byte d) := by
  have hhigh : (d.setWidth 16).extractLsb' 8 8 = 0 :=
    extractLsb'_eq_zero_of_and (by decide) (Laws.EncodingFitsRow.byte_mask d)
  have hlow : argByte (d.setWidth 16) = d :=
    (BitVec.extractLsb'_setWidth_of_le (by decide)).trans BitVec.extractLsb'_eq_self
  simp [decode, hhigh, hlow]

theorem byteEffect_closed (hc : s.sess = .closed) : byteEffect d s = s.violate .notOpen := requireOpen_closed hc

theorem byteEffect_open (hc : s.sess ≠ .closed) : byteEffect d s = drain (s.append [d]) := requireOpen_open hc

/-- Settles O31: without a session the violation; with one, `Drain` on the accumulator with the byte appended, below
64 bytes and at 64. (The pseudocode of `BYTE` bears the name `byteEffect`.) -/
theorem byteEffect_spec : Obligations.ByteEffect := by
  unfold Obligations.ByteEffect
  refine fun d => ⟨decode_packFields_byte d, ?_⟩
  rintro s u x hhung hfault - rfl rfl
  have hs : s.running := ⟨hhung, hfault⟩
  have hlen : (s.append [d]).fifo.length = s.fifo.length + 1 := List.length_append
  refine ⟨fun hc => ?closed, fun hc hl => ?short, fun hc hl ho => ?ok, fun hc hl ho => ?fail⟩
  case closed => exact exec_of_effect_eq_violate hs (byteEffect_closed hc)
  case short => exact exec_of_effect_eq hs ((byteEffect_open hc).trans (drain_short (by omega)))
  case ok => exact exec_of_effect_eq hs ((byteEffect_open hc).trans (drain_packet_ok (by omega) ho))
  case fail => exact exec_of_effect_eq hs ((byteEffect_open hc).trans (drain_packet_fail hfault (by omega) ho))

/-! ### `FLUSH` (R134) -/

theorem decode_packFields_flush : decode (packFields 0x31 0x00 0x0000) = .cmd .flush := by
  simp [decode]

theorem flushEffect_closed (hc : s.sess = .closed) : flushEffect s = s.violate .notOpen := requireOpen_closed hc

theorem flushEffect_empty (hc : s.sess ≠ .closed) (he : s.fifo = []) : flushEffect s = s :=
  (requireOpen_open hc).trans (if_pos he)

/-- All that waits goes out and leaves the accumulator. -/
theorem flushEffect_ok (hc : s.sess ≠ .closed) (hne : s.fifo ≠ []) (ho : s.txOutcome (.bulk 0x01 s.fifo) = .ok) :
    flushEffect s = { s with
      txAnswers := s.txAnswers.tail
      out := s.out ++ [(.bulk 0x01 s.fifo, .ok)]
      wptr := s.wptr.map (· + s.fifo.length)
      sess := .streaming
      fifo := [] } := by
  have hemit : emit s.remainder s = _ := emit_bulk_ok ho
  rw [flushEffect, requireOpen_open hc, if_neg hne, hemit]
  rfl

/-- A transfer that fails leaves in the accumulator what it was to carry. -/
theorem flushEffect_fail (hf : s.fault = none) (hc : s.sess ≠ .closed) (hne : s.fifo ≠ [])
    (ho : s.txOutcome (.bulk 0x01 s.fifo) = .fail) :
    flushEffect s = { s with
      txAnswers := s.txAnswers.tail
      out := s.out ++ [(.bulk 0x01 s.fifo, .fail)]
      wptr := none
      fault := some (.transportFailure (.transaction (.bulk 0x01 s.fifo))) } := by
  have hemit : emit s.remainder s = _ := emit_bulk_fail hf ho
  rw [flushEffect, requireOpen_open hc, if_neg hne, hemit]
  rfl

/-- Settles O32: the violation, the empty accumulator, and the one transfer with its two outcomes. The bound on the
accumulator is not needed: `FLUSH` sends whatever waits. (The pseudocode of `FLUSH` bears the name `flushEffect`.) -/
theorem flushEffect_spec : Obligations.FlushEffect := by
  unfold Obligations.FlushEffect
  refine ⟨decode_packFields_flush, ?_⟩
  rintro s u x hhung hfault - rfl rfl
  have hs : s.running := ⟨hhung, hfault⟩
  refine ⟨fun hc => ?closed, fun hc he => ?empty, fun hc hne ho => ?ok, fun hc hne ho => ?fail⟩
  case closed => exact exec_of_effect_eq_violate hs (flushEffect_closed hc)
  case empty => exact exec_of_effect_eq hs (flushEffect_empty hc he)
  case ok => exact exec_of_effect_eq hs (flushEffect_ok hc hne ho)
  case fail => exact exec_of_effect_eq hs (flushEffect_fail hfault hc hne ho)

end Sys2Proof.Machine
end

section
/-! The control commands (42_control.md, R151 to R153, R155, R159): what a transaction does to the shadows, what one
control transfer does, and the three commands that make one. -/

namespace Sys2Proof.Machine

variable {s : State} {bm ep req : Byte} {val idx : Half} {v : Bit} {b : List Byte}

/-! ### `Update` (R159) -/

theorem update_ctrl_ok : s.update (.ctrl bm req val idx) .ok = { s with
    wptr := some 0, sess := .reset
    panelOn := if req = 0x01 then some (val.extractLsb' 0 1) else s.panelOn
    bright := if req = 0x02 then some val else s.bright } := rfl

theorem update_bulk_ok :
    s.update (.bulk ep b) .ok = { s with wptr := s.wptr.map (· + b.length), sess := .streaming } := rfl

theorem update_ctrl_fail : s.update (.ctrl bm req val idx) .fail = { s with
    wptr := none
    panelOn := if req = 0x01 then none else s.panelOn
    bright := if req = 0x02 then none else s.bright } := rfl

theorem update_bulk_fail : s.update (.bulk ep b) .fail = { s with wptr := none } := rfl

theorem update_stall (x : Txn) : s.update x .stall = s := by cases x <;> rfl

/-- Settles O38: one equation for each outcome of each kind of transaction. -/
theorem shadowUpdate : Obligations.ShadowUpdate := by
  unfold Obligations.ShadowUpdate
  exact fun _ _ _ _ _ _ _ =>
    ⟨update_ctrl_ok, update_bulk_ok, update_ctrl_fail, update_bulk_fail, update_stall _, update_stall _⟩

/-! ### The control transfer (R155) -/

theorem controlTransfer_closed (hc : s.sess = .closed) : controlTransfer req val s = s.violate .notOpen :=
  requireOpen_closed hc

/-- What a control transfer writes when the device takes it. -/
theorem controlTransfer_ok (hc : s.sess ≠ .closed) (ho : s.txOutcome (ctrlTxn req val) = .ok) :
    controlTransfer req val s = { s with
      txAnswers := s.txAnswers.tail
      out := s.out ++ [(ctrlTxn req val, .ok)]
      wptr := some 0
      sess := .reset
      panelOn := if req = 0x01 then some (onoffShadow val) else s.panelOn
      bright := if req = 0x02 then some val else s.bright } := by
  rw [controlTransfer, requireOpen_open hc, emit_ok ho]
  exact update_ctrl_ok

/-- What a control transfer writes when the transport reports an error. -/
theorem controlTransfer_fail (hf : s.fault = none) (hc : s.sess ≠ .closed)
    (ho : s.txOutcome (ctrlTxn req val) = .fail) :
    controlTransfer req val s = { s with
      txAnswers := s.txAnswers.tail
      out := s.out ++ [(ctrlTxn req val, .fail)]
      wptr := none
      panelOn := if req = 0x01 then none else s.panelOn
      bright := if req = 0x02 then none else s.bright
      fault := some (.transportFailure (.transaction (ctrlTxn req val))) } := by
  rw [controlTransfer, requireOpen_open hc, emit_fail ho]
  exact State.raise_of_none _ _ hf

/-! ### `RESET_WRITEPTR` (R151) -/

theorem decode_packFields_resetWriteptr : decode (packFields 0x40 0x00 0x0000) = .cmd .resetWriteptr := by
  simp [decode]

/-- Settles O34: the control transfer with request 0, which is neither the panel's switch nor its level. (The pseudocode
of `RESET_WRITEPTR` bears the name `resetWriteptrEffect`.) -/
theorem resetWriteptrEffect_spec : Obligations.ResetWriteptrEffect := by
  unfold Obligations.ResetWriteptrEffect
  refine ⟨decode_packFields_resetWriteptr, ?_⟩
  rintro s u x hhung hfault rfl rfl
  have hs : s.running := ⟨hhung, hfault⟩
  refine ⟨fun hc => ?closed, fun hc ho => ?ok, fun hc ho => ?fail⟩
  case closed => exact exec_of_effect_eq_violate hs (controlTransfer_closed hc)
  case ok => exact exec_of_effect_eq hs (controlTransfer_ok hc ho)
  case fail => exact exec_of_effect_eq hs (controlTransfer_fail hfault hc ho)

/-! ### `PANEL_ONOFF` (R152) -/

/-- The switch read back from the wValue that carries it. -/
theorem onoffShadow_onoffValue (v : Bit) : onoffShadow (onoffValue v) = v :=
  (BitVec.extractLsb'_setWidth_of_le (by decide)).trans BitVec.extractLsb'_eq_self

/-- An operand of one bit, widened, leaves `arg[15:1]` 0 and is read back from `arg[0]`. -/
theorem decode_packFields_panelOnoff (v : Bit) :
    decode (packFields 0x40 0x01 (v.setWidth 16)) = .cmd (.panelOnoff v) := by
  have hhigh : (v.setWidth 16).extractLsb' 1 15 = 0 :=
    extractLsb'_eq_zero_of_and (by decide) (Laws.EncodingFitsRow.bit_mask v)
  have hlow : argBit (v.setWidth 16) = v := onoffShadow_onoffValue v
  simp [decode, hhigh, hlow]

/-- A transfer the device takes leaves in the shadow the switch itself, not the wValue. -/
theorem panelOnoffEffect_ok (hc : s.sess ≠ .closed)
    (ho : s.txOutcome (ctrlTxn Config.reqPanelOnoff (onoffValue v)) = .ok) :
    panelOnoffEffect v s = { s with
      txAnswers := s.txAnswers.tail
      out := s.out ++ [(ctrlTxn Config.reqPanelOnoff (onoffValue v), .ok)]
      wptr := some 0
      sess := .reset
      panelOn := some v } := by
  rw [panelOnoffEffect, controlTransfer_ok hc ho, onoffShadow_onoffValue]
  rfl

/-- Settles O35: the control transfer with request 1; its wValue holds the switch. (The pseudocode of `PANEL_ONOFF` bears
the name `panelOnoffEffect`.) -/
theorem panelOnoffEffect_spec : Obligations.PanelOnoffEffect := by
  unfold Obligations.PanelOnoffEffect
  refine fun v => ⟨decode_packFields_panelOnoff v, ?_⟩
  rintro s u x hhung hfault rfl rfl
  have hs : s.running := ⟨hhung, hfault⟩
  refine ⟨fun hc => ?closed, fun hc ho => ?ok, fun hc ho => ?fail⟩
  case closed => exact exec_of_effect_eq_violate hs (controlTransfer_closed hc)
  case ok => exact exec_of_effect_eq hs (panelOnoffEffect_ok hc ho)
  case fail => exact exec_of_effect_eq hs (controlTransfer_fail hfault hc ho)

/-! ### `PANEL_BRIGHTNESS` (R153) -/

theorem decode_packFields_panelBrightness (n : Half) :
    decode (packFields 0x40 0x02 n) = .cmd (.panelBrightness n) := by
  simp [decode]

/-- Settles O36: the control transfer with request 2; its wValue is the level. (The pseudocode of `PANEL_BRIGHTNESS` bears
the name `panelBrightnessEffect`.) -/
theorem panelBrightnessEffect_spec : Obligations.PanelBrightnessEffect := by
  unfold Obligations.PanelBrightnessEffect
  refine fun n => ⟨decode_packFields_panelBrightness n, ?_⟩
  rintro s u x hhung hfault rfl rfl
  have hs : s.running := ⟨hhung, hfault⟩
  refine ⟨fun hc => ?closed, fun hc ho => ?ok, fun hc ho => ?fail⟩
  case closed => exact exec_of_effect_eq_violate hs (controlTransfer_closed hc)
  case ok => exact exec_of_effect_eq hs (controlTransfer_ok hc ho)
  case fail => exact exec_of_effect_eq hs (controlTransfer_fail hfault hc ho)

end Sys2Proof.Machine
end

section
/-! The session state (42_control.md, R150, R158): what `OPEN` does, what one transaction does, and that a command makes no
other transition. -/

namespace Sys2Proof.Machine

variable {i : Instr} {s t u : State} {x : Txn} {o : TxOutcome}

/-! ### `OPEN` (R150) -/

theorem openEffect_open (hc : s.sess ≠ .closed) : openEffect s = s.violate .alreadyOpen := if_neg hc

theorem openEffect_ok (hc : s.sess = .closed) (ho : s.openOutcome = .ok) :
    openEffect s = { s with openAnswers := s.openAnswers.tail, sess := .configured } := by
  simp [openEffect, hc, ho]

theorem openEffect_notFound (hf : s.fault = none) (hc : s.sess = .closed) (ho : s.openOutcome = .notFound) :
    openEffect s = { s with openAnswers := s.openAnswers.tail, fault := some .deviceNotFound } := by
  simp [openEffect, hc, ho, State.raise_of_none, hf]

theorem openEffect_fail (hf : s.fault = none) (hc : s.sess = .closed) (ho : s.openOutcome = .fail) :
    openEffect s = { s with
      openAnswers := s.openAnswers.tail, fault := some (.transportFailure .openDevice) } := by
  simp [openEffect, hc, ho, State.raise_of_none, hf]

theorem openEffect_stall (hc : s.sess = .closed) (ho : s.openOutcome = .stall) :
    openEffect s = { s with openAnswers := s.openAnswers.tail, hung := some .openDevice } := by
  simp [openEffect, hc, ho]

/-- `OPEN` with no session, when it completes: a session or a fault. -/
theorem openEffect_closed_completes (hf : s.fault = none) (hc : s.sess = .closed) (hh : (openEffect s).hung = none) :
    (openEffect s).sess = (if s.openOutcome = .ok then .configured else .closed) ∧
      ((openEffect s).fault = none ↔ s.openOutcome = .ok) := by
  cases ho : s.openOutcome with
  | ok => simp [openEffect_ok hc ho, hf]
  | notFound => simp [openEffect_notFound hf hc ho, hc]
  | fail => simp [openEffect_fail hf hc ho, hc]
  | stall => simp [openEffect_stall hc ho] at hh

/-! ### The commands that need the device (R181) -/

theorem rasterStep_closed {b : Bit} (hc : s.sess = .closed) : rasterStep b s = s.violate .notOpen :=
  requireOpen_closed hc

theorem effect_needsDevice_closed (hi : i.needsDevice = true) (hc : s.sess = .closed) :
    effect i s = s.violate .notOpen := by
  cases i with
  | openDev | setW | setH => cases hi
  | pix8 | pix1 => exact rasterStep_closed hc
  | byte => exact byteEffect_closed hc
  | flush => exact flushEffect_closed hc
  | resetWriteptr | panelOnoff | panelBrightness => exact controlTransfer_closed hc

/-! ### One transaction (R52, R158) -/

theorem sessAfter_eq (x : Txn) (o : TxOutcome) (p : Sess) :
    sessAfter x o p = if o = .ok then (if x.isCtrl then .reset else .streaming) else p := by
  cases o <;> cases x <;> rfl

/-- From `s` to `t` the transaction `x` was made, with outcome `o`: what the history, the session, the latch and the
stall show of it. -/
structure Transacts (x : Txn) (o : TxOutcome) (s t : State) : Prop where
  out : t.out = s.out ++ [(x, o)]
  sess : t.sess = sessAfter x o s.sess
  fault : o = .fail → t.fault = some (.transportFailure (.transaction x))
  hung : o = .stall → t.hung = some (.transaction x)

/-- A transfer the device takes, whatever then leaves the accumulator. -/
theorem transacts_ok (x : Txn) (s : State) (rest : List Byte) :
    Transacts x .ok s { (s.record x .ok).update x .ok with fifo := rest } := ⟨rfl, rfl, nofun, nofun⟩

theorem transacts_fail (x : Txn) (hf : s.fault = none) :
    Transacts x .fail s (((s.record x .fail).update x .fail).raise (.transportFailure (.transaction x))) where
  out := State.raise_out _ _
  sess := State.raise_sess _ _
  fault _ := by simp [hf]
  hung := nofun

theorem transacts_stall (x : Txn) (s : State) :
    Transacts x .stall s { s.record x .stall with hung := some (.transaction x) } := ⟨rfl, rfl, nofun, fun _ => rfl⟩

theorem emit_transacts (x : Txn) (hf : s.fault = none) : ∃ o, Transacts x o s (emit x s).2 := by
  rcases emit_cases x s with he | he | he <;> rw [he]
  · exact ⟨.ok, transacts_ok x s s.fifo⟩
  · exact ⟨.fail, transacts_fail x hf⟩
  · exact ⟨.stall, transacts_stall x s⟩

/-- A transaction is seen the same from any state with this history and session. -/
theorem Transacts.of_eq (h : Transacts x o u t) (hout : u.out = s.out) (hsess : u.sess = s.sess) :
    Transacts x o s t where
  out := hout ▸ h.out
  sess := hsess ▸ h.sess
  fault := h.fault
  hung := h.hung

/-! ### The transitions (R158) -/

/-- What a command `i` that takes the block from `s` to `t` does to the session: nothing; or it is `OPEN` with no session,
which makes no transaction; or, with a session, it makes one transaction. -/
inductive SessionEffect (i : Instr) (s t : State) : Prop where
  | silent (hout : t.out = s.out) (hsess : t.sess = s.sess)
  | opening (hi : i = .openDev) (hc : s.sess = .closed) (hout : t.out = s.out)
  | transaction (x : Txn) (o : TxOutcome) (hc : s.sess ≠ .closed) (hx : Transacts x o s t)

/-- `Drain` after a command has put its bytes into the accumulator, giving `u`. -/
theorem drain_sessionEffect (hc : s.sess ≠ .closed) (hout : u.out = s.out) (hsess : u.sess = s.sess)
    (hf : u.fault = none) (hl : u.fifo.length < 128) : SessionEffect i s (drain u) := by
  obtain ⟨-, hd⟩ | ⟨-, hd | hd | hd⟩ := drain_cases hl <;> rw [hd]
  · exact .silent hout hsess
  · exact .transaction _ _ hc ((transacts_ok _ u _).of_eq hout hsess)
  · exact .transaction _ _ hc ((transacts_fail _ hf).of_eq hout hsess)
  · exact .transaction _ _ hc ((transacts_stall _ u).of_eq hout hsess)

theorem effect_sessionEffect (i : Instr) (hf : s.fault = none) (hl : s.fifo.length ≤ 63) :
    SessionEffect i s (effect i s) := by
  apply effect_induction (SessionEffect i s) i s
  case hidle => exact .silent rfl rfl
  case hviolate => exact fun _ => .silent (State.violate_out _ _) (State.violate_sess _ _)
  case hopen =>
    exact fun hi hc => ⟨.opening hi hc rfl, .opening hi hc rfl, .opening hi hc (State.raise_out _ _),
      .opening hi hc (State.raise_out _ _)⟩
  case hsetW => exact fun _ _ _ _ => .silent rfl rfl
  case hsetH => exact fun _ _ _ _ => .silent rfl rfl
  case hpixel =>
    intro b _ hc _
    have hlen := assemble_advance_fifo_length (s := s) b
    exact drain_sessionEffect hc (by simp) (by simp) (by simp [hf]) (by omega)
  case hbyte =>
    intro d _ hc
    exact drain_sessionEffect hc rfl rfl hf (by rw [State.append_fifo, List.length_append, List.length_singleton]; omega)
  case hflush =>
    exact fun _ hc _ => ⟨.transaction _ _ hc (transacts_ok _ s _), .transaction _ _ hc (transacts_fail _ hf),
      .transaction _ _ hc (transacts_stall _ s)⟩
  case hcontrol =>
    intro req val _ hc
    obtain ⟨o, hx⟩ := emit_transacts (ctrlTxn req val) hf
    exact .transaction _ o hc hx

/-- With no session only `OPEN` can make one. -/
theorem SessionEffect.sess_closed (h : SessionEffect i s t) (hc : s.sess = .closed) (hi : i ≠ .openDev) :
    t.sess = .closed := by
  cases h with
  | silent _ hsess => exact hsess.trans hc
  | opening hopen => exact absurd hopen hi
  | transaction _ _ hopen => exact absurd hc hopen

/-- With a session and no transaction the session stays. -/
theorem SessionEffect.sess_of_out_eq (h : SessionEffect i s t) (hout : t.out = s.out) (hc : s.sess ≠ .closed) :
    t.sess = s.sess := by
  cases h with
  | silent _ hsess => exact hsess
  | opening _ hclosed => exact absurd hclosed hc
  | transaction x o _ hx => simpa using hout.symm.trans hx.out

/-- A command that has recorded a transaction has made it. -/
theorem SessionEffect.transacts_of_out_eq (h : SessionEffect i s t) (hout : t.out = s.out ++ [(x, o)]) :
    Transacts x o s t := by
  cases h with
  | silent heq => simpa using heq.symm.trans hout
  | opening _ _ heq => simpa using heq.symm.trans hout
  | transaction x' o' _ hx =>
    have heq : (x', o') = (x, o) := by simpa using hx.out.symm.trans hout
    obtain ⟨rfl, rfl⟩ := Prod.mk.inj heq
    exact hx

/-- Settles O39: `OPEN` by its outcomes, the missing session by `requireOpen`, and the rest by the one transaction a
command can make. -/
theorem sessionTransitions : Obligations.SessionTransitions := by
  unfold Obligations.SessionTransitions
  intro i s t hhung hfault hlen hexec hdone
  obtain rfl : effect i s = t := by simpa [exec_running i ⟨hhung, hfault⟩] using hexec
  have heff := effect_sessionEffect i hfault hlen
  refine ⟨?opening, heff.sess_closed, ?notOpen, ?alreadyOpen, heff.sess_of_out_eq, ?transaction⟩
  case opening =>
    rintro hc rfl
    exact openEffect_closed_completes hfault hc hdone
  case notOpen =>
    intro hc hi
    rw [effect_needsDevice_closed hi hc, s.violate_of_none _ hfault]
  case alreadyOpen =>
    rintro hc rfl
    have he : effect .openDev s = { s with fault := _ } := (openEffect_open hc).trans (s.violate_of_none _ hfault)
    rw [he]
    exact ⟨rfl, rfl⟩
  case transaction =>
    intro x o hout
    have hx := heff.transacts_of_out_eq hout
    exact ⟨hx.sess.trans (sessAfter_eq x o s.sess), hx.fault⟩

end Sys2Proof.Machine
end

section
/-! Exceptions and the halted block (60_exceptions.md): a violation writes the latch alone (R183), a reserved word raises
(R182), and a latched fault stops every word (R188). -/

namespace Sys2Proof.Machine

variable {i : Instr} {s t : State} {cw : Word} {rest : List HostInput}

/-! ### A word at the command port -/

/-- A step of a block that has not stalled presents the host's next word and moves past it. -/
theorem step_word (hh : s.hung = none) (hw : s.host = .word cw :: rest) :
    step s = present cw { s with host := rest } := by
  simp [step, portStep, hh, hw]

theorem present_command (hd : decode cw = .cmd i) : present cw s = exec i s := by
  simp [present, hd]

theorem present_reserved (hd : decode cw = .reserved cw) :
    present cw s = command (State.violate (.reservedCommand cw)) s := by
  simp [present, hd]

/-- Settles O5: the word is presented, the decoder reserves it, and raising writes the latch alone. -/
theorem reservedWordRaises : Obligations.ReservedWordRaises := by
  unfold Obligations.ReservedWordRaises
  intro s cw rest hhung hfault hhost hd
  have hs : ({ s with host := rest } : State).running := ⟨hhung, hfault⟩
  calc step s
    _ = present cw { s with host := rest } := step_word hhung hhost
    _ = command (State.violate (.reservedCommand cw)) { s with host := rest } := present_reserved hd
    _ = .next (State.violate (.reservedCommand cw) { s with host := rest }) := command_running hs
    _ = .next { s with host := rest, fault := some (.preconditionViolation (.reservedCommand cw)) } :=
      congrArg _ (State.violate_of_none _ _ hfault)

/-! ### The halted block (R188) -/

theorem exec_halted (i : Instr) (hh : s.hung = none) (hf : s.fault ≠ none) : exec i s = .next s := by
  rw [exec_eq_command, command_halted hh hf]

/-- Whatever the decoder makes of the word, a halted block completes it and does nothing. -/
theorem present_halted (cw : Word) (hh : s.hung = none) (hf : s.fault ≠ none) : present cw s = .next s := by
  cases hd : decode cw with
  | cmd i => rw [present_command hd, exec_halted i hh hf]
  | reserved w =>
    obtain rfl : w = cw := decode_reserved hd
    rw [present_reserved hd, command_halted hh hf]

/-- Settles O8: the frame of a command for every command, and for every word through the port. -/
theorem haltedBlockDoesNothing : Obligations.HaltedBlockDoesNothing := by
  unfold Obligations.HaltedBlockDoesNothing
  exact fun s hhung hfault => ⟨fun i => exec_halted i hhung hfault, fun cw _ hhost =>
    (step_word hhung hhost).trans (present_halted cw hhung hfault)⟩

/-! ### A violation writes the latch alone (R183)

Only `violate` latches a precondition violation: what `OPEN` and a transaction latch, the environment has answered. -/

/-- The latch holds no precondition violation. -/
def State.Unviolated (s : State) : Prop := ∀ r, s.fault ≠ some (.preconditionViolation r)

theorem unviolated_of_none (hf : s.fault = none) : s.Unviolated := fun _ => hf.trans_ne nofun

/-- The latch keeps what it holds, so a raise brings in a violation only where it raises one. -/
theorem unviolated_raise {e : Exc} (hs : s.Unviolated) (he : ∀ r, e ≠ .preconditionViolation r) :
    (s.raise e).Unviolated := by
  intro r
  cases hf : s.fault with
  | none => simpa [hf] using he r
  | some e' => simpa [hf] using hs r

/-- A transaction latches nothing or its transport failure. -/
theorem unviolated_emit (x : Txn) (hs : s.Unviolated) : (emit x s).2.Unviolated := by
  rcases emit_cases x s with he | he | he <;> rw [he]
  · exact hs
  · exact unviolated_raise hs (fun _ => nofun)
  · exact hs

/-- `Drain` latches nothing or a transport failure, however many packets wait. -/
theorem unviolated_drain (hs : s.Unviolated) : (drain s).Unviolated :=
  drainLoop_induction State.Unviolated (fun _ h _ => h) (fun s h _ _ => unviolated_emit s.packet h) _ s hs

/-- If `t` holds a precondition violation, it is `s` with the latch written. -/
def ViolationWritesLatchAlone (s t : State) : Prop :=
  ∀ r, t.fault = some (.preconditionViolation r) → t = { s with fault := t.fault }

theorem latchAlone_of_unviolated (ht : t.Unviolated) : ViolationWritesLatchAlone s t :=
  fun r h => absurd h (ht r)

theorem latchAlone_violate (r : Reason) (hf : s.fault = none) : ViolationWritesLatchAlone s (s.violate r) := by
  rw [s.violate_of_none r hf]
  exact fun _ _ => rfl

/-- Each branch of a command either raises a violation and does no more, or latches none. -/
theorem latchAlone_effect (i : Instr) (hf : s.fault = none) : ViolationWritesLatchAlone s (effect i s) := by
  have hs : s.Unviolated := unviolated_of_none hf
  apply effect_induction (ViolationWritesLatchAlone s) i s
  case hviolate => exact fun r => latchAlone_violate r hf
  case hidle => exact latchAlone_of_unviolated hs
  case hopen =>
    exact fun _ _ => ⟨latchAlone_of_unviolated hs, latchAlone_of_unviolated hs,
      latchAlone_of_unviolated (unviolated_raise hs fun _ => nofun),
      latchAlone_of_unviolated (unviolated_raise hs fun _ => nofun)⟩
  case hsetW => exact fun _ _ _ _ => latchAlone_of_unviolated hs
  case hsetH => exact fun _ _ _ _ => latchAlone_of_unviolated hs
  case hpixel =>
    intro b _ _ _
    have hfault : (s.assemble b).advance.fault = none := by simp [hf]
    exact latchAlone_of_unviolated (unviolated_drain (unviolated_of_none hfault))
  case hbyte => exact fun _ _ _ => latchAlone_of_unviolated (unviolated_drain hs)
  case hflush =>
    exact fun _ _ _ => ⟨latchAlone_of_unviolated hs,
      latchAlone_of_unviolated (unviolated_raise hs fun _ => nofun), latchAlone_of_unviolated hs⟩
  case hcontrol => exact fun _ _ _ _ => latchAlone_of_unviolated (unviolated_emit _ hs)

/-- Settles O45: with no fault latched the next state is the command's effect. -/
theorem preconditionViolationChangesNothing : Obligations.PreconditionViolationChangesNothing := by
  unfold Obligations.PreconditionViolationChangesNothing
  intro i s t r hexec hfault
  obtain ⟨-, ⟨hne, -⟩ | ⟨-, rfl⟩⟩ := exec_cases hexec
  · exact absurd hfault hne
  · exact latchAlone_effect i hfault r

end Sys2Proof.Machine
end

section
/-! The encoder and the decoder as inverses, and the reserved words (30_encoding.md sections 1 to 4). -/

namespace Sys2Proof

/-! ### The word of a command (R72, R73) -/

theorem decode_packFields_openDev : decode (packFields 0x01 0x00 0x0000) = .cmd .openDev := by
  simp [decode]

/-- An operand of eight bits, widened, leaves `arg[15:8]` 0 and is read back from `arg[7:0]`. -/
theorem decode_packFields_pix8 (p : Byte) : decode (packFields 0x20 0x00 (p.setWidth 16)) = .cmd (.pix8 p) := by
  have hhigh : (p.setWidth 16).extractLsb' 8 8 = 0 :=
    extractLsb'_eq_zero_of_and (by decide) (Laws.EncodingFitsRow.byte_mask p)
  have hlow : argByte (p.setWidth 16) = p :=
    (BitVec.extractLsb'_setWidth_of_le (by decide)).trans BitVec.extractLsb'_eq_self
  simp [decode, hhigh, hlow]

/-- An operand of one bit, widened, leaves `arg[15:1]` 0 and is read back from `arg[0]`. -/
theorem decode_packFields_pix1 (b : Bit) : decode (packFields 0x21 0x00 (b.setWidth 16)) = .cmd (.pix1 b) := by
  have hhigh : (b.setWidth 16).extractLsb' 1 15 = 0 :=
    extractLsb'_eq_zero_of_and (by decide) (Laws.EncodingFitsRow.bit_mask b)
  have hlow : argBit (b.setWidth 16) = b :=
    (BitVec.extractLsb'_setWidth_of_le (by decide)).trans BitVec.extractLsb'_eq_self
  simp [decode, hhigh, hlow]

/-- Settles O1: command by command, the decoder on the word's fields. -/
theorem decodeOfEncode : Obligations.DecodeOfEncode := by
  unfold Obligations.DecodeOfEncode
  intro i
  cases i with
  | openDev => exact decode_packFields_openDev
  | setW w => exact Machine.decode_packFields_setW w
  | setH h => exact Machine.decode_packFields_setH h
  | pix8 p => exact decode_packFields_pix8 p
  | pix1 b => exact decode_packFields_pix1 b
  | byte d => exact Machine.decode_packFields_byte d
  | flush => exact Machine.decode_packFields_flush
  | resetWriteptr => exact Machine.decode_packFields_resetWriteptr
  | panelOnoff v => exact Machine.decode_packFields_panelOnoff v
  | panelBrightness n => exact Machine.decode_packFields_panelBrightness n

/-- Settles O2: the decoder loses nothing of a legal word. -/
theorem encodeOfDecode : Obligations.EncodeOfDecode := by
  unfold Obligations.EncodeOfDecode
  exact fun _ _ => encode_eq_of_decode

/-! ### The reserved words (R74) -/

/-- The word of a command passes the field check. -/
theorem wellFormed_encode (i : Instr) : (rawFields (encode i)).wellFormed = true := by
  cases i with
  | openDev | setW | setH | flush | resetWriteptr | panelBrightness =>
    simp [encode, rawFields, RawCommand.wellFormed]
  | pix8 v | pix1 v | byte v | panelOnoff v =>
    have hv : v.toNat < _ := v.isLt
    simp [encode, rawFields, RawCommand.wellFormed]
    omega

/-- A value below 2^k is its low `k` bits, widened again. -/
theorem setWidth_setWidth_of_lt {w k : Nat} {x : BitVec w} (h : x.toNat < 2 ^ k) : (x.setWidth k).setWidth w = x := by
  apply BitVec.eq_of_toNat_eq
  rw [BitVec.toNat_setWidth, BitVec.toNat_setWidth, Nat.mod_eq_of_lt h, Nat.mod_eq_of_lt x.isLt]

/-- A word that passes the field check is the word of a command: line by line, the fields are the command's columns. -/
theorem exists_encode_of_wellFormed {cw : Word} (h : (rawFields cw).wellFormed = true) : ∃ i, encode i = cw := by
  simp only [RawCommand.wellFormed, rawFields, Bool.or_eq_true, Bool.and_eq_true, beq_iff_eq, or_assoc,
    and_assoc] at h
  rcases h with h | h | h | ⟨ho, hr, ha⟩ | ⟨ho, hr, ha⟩ | ⟨ho, hr, ha⟩ | h | h | ⟨ho, hr, ha⟩ | h
  · exact ⟨.openDev, packFields_of_fields h⟩
  · exact ⟨.setW _, packFields_of_fields (h.imp_right (⟨·, rfl⟩))⟩
  · exact ⟨.setH _, packFields_of_fields (h.imp_right (⟨·, rfl⟩))⟩
  · exact ⟨.pix8 _, packFields_of_fields ⟨ho, hr, (setWidth_setWidth_of_lt (of_decide_eq_true ha)).symm⟩⟩
  · exact ⟨.pix1 _, packFields_of_fields ⟨ho, hr, (setWidth_setWidth_of_lt (of_decide_eq_true ha)).symm⟩⟩
  · exact ⟨.byte _, packFields_of_fields ⟨ho, hr, (setWidth_setWidth_of_lt (of_decide_eq_true ha)).symm⟩⟩
  · exact ⟨.flush, packFields_of_fields h⟩
  · exact ⟨.resetWriteptr, packFields_of_fields h⟩
  · exact ⟨.panelOnoff _, packFields_of_fields ⟨ho, hr, (setWidth_setWidth_of_lt (of_decide_eq_true ha)).symm⟩⟩
  · exact ⟨.panelBrightness _, packFields_of_fields (h.imp_right (⟨·, rfl⟩))⟩

/-- The words that pass the field check are those that decode to a command. -/
theorem wellFormed_iff_decode_cmd (cw : Word) : (rawFields cw).wellFormed = true ↔ ∃ i, decode cw = .cmd i := by
  constructor
  · intro h
    obtain ⟨i, rfl⟩ := exists_encode_of_wellFormed h
    exact ⟨i, decodeOfEncode i⟩
  · rintro ⟨i, hd⟩
    rw [← encode_eq_of_decode hd]
    exact wellFormed_encode i

/-- Settles O4: the decoder answers a command or the word itself as reserved. -/
theorem reservedExactlyIllFormedFields : Obligations.ReservedExactlyIllFormedFields := by
  unfold Obligations.ReservedExactlyIllFormedFields
  intro cw
  rw [← Bool.not_eq_true, wellFormed_iff_decode_cmd]
  cases hd : decode cw with
  | cmd i => simp
  | reserved w => simp [decode_reserved hd]

/-- Settles O6: table Q, word by word. -/
theorem sampleWordsDecode : Obligations.SampleWordsDecode := by
  unfold Obligations.SampleWordsDecode
  refine ⟨?_, ?_, ?_, ?_, ?_, ?_, ?_, ?_, ?_, ?_, ?_, ?_, ?_, ?_⟩ <;> decide

end Sys2Proof
end

section
/-! The command port (20_memory.md section 8, 70_reset_and_hazards.md): what a step does with the host's next input, in a
running, a halted and a stalled block. -/

namespace Sys2Proof.Machine

variable {s t : State} {cw : Word} {before rest : List HostInput} {i : Instr}

/-- Settles O7: the word is presented, and the decoder names the command. -/
theorem stepRunsDecodedCommand : Obligations.StepRunsDecodedCommand := by
  unfold Obligations.StepRunsDecodedCommand
  exact fun _ _ _ _ hhung hhost hd => (step_word hhung hhost).trans (present_command hd)

/-! ### The host's resets -/

/-- Words before the host's first reset are passed over. -/
theorem afterReset_append (hwords : ∀ x ∈ before, x ≠ .reset) : afterReset (before ++ .reset :: rest) = some rest := by
  induction before with
  | nil => rfl
  | cons x before ih =>
    obtain ⟨hx, hbefore⟩ := List.forall_mem_cons.mp hwords
    cases x with
    | reset => exact absurd rfl hx
    | word cw => exact ih hbefore

theorem afterReset_eq_none {inputs : List HostInput} (hwords : ∀ x ∈ inputs, x ≠ .reset) : afterReset inputs = none := by
  induction inputs with
  | nil => rfl
  | cons x inputs ih =>
    obtain ⟨hx, hinputs⟩ := List.forall_mem_cons.mp hwords
    cases x with
    | reset => exact absurd rfl hx
    | word cw => exact ih hinputs

theorem step_stalled (hh : s.hung ≠ none) (ha : afterReset s.host = some rest) : step s = .next (restart rest s) := by
  obtain ⟨q, hq⟩ := Option.ne_none_iff_exists'.mp hh
  simp [step, portStep, hq, ha]

theorem step_stalled_for_ever (hh : s.hung ≠ none) (ha : afterReset s.host = none) : step s = .fault .stalled := by
  obtain ⟨q, hq⟩ := Option.ne_none_iff_exists'.mp hh
  simp [step, portStep, hq, ha]

theorem step_reset (hh : s.hung = none) (hr : s.host = .reset :: rest) : step s = .next (restart rest s) := by
  simp [step, portStep, hh, hr]

/-- Settles O9: the frame of a command refuses it, and with no reset ahead the step too. -/
theorem stalledBlockExecutesNothing : Obligations.StalledBlockExecutesNothing := by
  unfold Obligations.StalledBlockExecutesNothing
  exact fun s hhung => ⟨fun i => (exec_eq_command i s).trans (command_stalled hhung),
    fun hwords => step_stalled_for_ever hhung (afterReset_eq_none hwords)⟩

/-- Settles O10: a stalled block passes over the words before the reset; any other takes a reset that comes next. -/
theorem hostResetGivesResetState : Obligations.HostResetGivesResetState := by
  unfold Obligations.HostResetGivesResetState
  intro s before rest hhost hwords hcase
  by_cases hh : s.hung = none
  · obtain rfl : before = [] := hcase.resolve_right (not_not_intro hh)
    exact step_reset hh hhost
  · exact step_stalled hh (hhost ▸ afterReset_append hwords)

/-- Settles O11. -/
theorem waitsForTheHost : Obligations.WaitsForTheHost := by
  unfold Obligations.WaitsForTheHost
  intro s hhung hhost
  simp [step, portStep, hhung, hhost]

/-- Settles O48: a halted block waits or passes over a word, and nothing else but a reset can come. -/
theorem faultClearedOnlyByReset : Obligations.FaultClearedOnlyByReset := by
  unfold Obligations.FaultClearedOnlyByReset
  intro s t hstep hfault
  obtain ⟨rest, hreset, rfl⟩ | ⟨-, ⟨-, rfl⟩ | ⟨cw, rest, -, ⟨-, rfl⟩ | ⟨hnone, -⟩⟩⟩ := step_cases hstep
  · exact .inr ⟨rest, hreset, rfl⟩
  · exact .inl ⟨rfl, rfl, rfl, rfl⟩
  · exact .inl ⟨rfl, rfl, rfl, rfl⟩
  · exact absurd hnone hfault

end Sys2Proof.Machine
end

section
/-! The commands of the block, one at a time: a transfer that stalls, the control commands and `OPEN` (42_control.md), and
the raster step (40_encoder.md section 5, R112) with the packet it can complete (41_framer.md section 2). -/

namespace Sys2Proof.Machine

variable {s : State} {i : Instr} {d : Byte} {req : Byte} {val : Half}

/-! ### The session is needed first (R181) -/

/-- Settles O40: `requireOpen` stands before the rest of each of these commands. -/
theorem deviceCommandsNeedSession : Obligations.DeviceCommandsNeedSession := by
  unfold Obligations.DeviceCommandsNeedSession
  exact fun _ _ hi hhung hfault hc => exec_of_effect_eq_violate ⟨hhung, hfault⟩ (effect_needsDevice_closed hi hc)

/-! ### `OPEN` (R150) -/

/-- Settles O33: the four ways `OPEN` completes. (The pseudocode of `OPEN` bears the name `openEffect`.) -/
theorem openEffect_spec : Obligations.OpenEffect := by
  unfold Obligations.OpenEffect
  refine ⟨decode_packFields_openDev, ?_⟩
  rintro s u hhung hfault rfl
  have hs : s.running := ⟨hhung, hfault⟩
  refine ⟨fun hc => ?alreadyOpen, fun hc ho => ?ok, fun hc ho => ?notFound, fun hc ho => ?fail⟩
  case alreadyOpen => exact exec_of_effect_eq_violate hs (openEffect_open hc)
  case ok => exact exec_of_effect_eq hs (openEffect_ok hc ho)
  case notFound => exact exec_of_effect_eq hs (openEffect_notFound hfault hc ho)
  case fail => exact exec_of_effect_eq hs (openEffect_fail hfault hc ho)

/-! ### The control commands (R155) -/

theorem effect_control (hi : i.controlRequest = some (req, val)) : effect i s = controlTransfer req val s := by
  cases i <;> cases hi <;> rfl

theorem controlTransfer_open (hc : s.sess ≠ .closed) : controlTransfer req val s = (emit (ctrlTxn req val) s).2 :=
  requireOpen_open hc

/-- What a transfer leaves alone, whatever its outcome: the encoder's registers and the accumulator. -/
theorem emit_frame (x : Txn) (s : State) : (emit x s).2.W = s.W ∧ (emit x s).2.H = s.H ∧ (emit x s).2.rx = s.rx ∧
    (emit x s).2.ry = s.ry ∧ (emit x s).2.acc = s.acc ∧ (emit x s).2.fifo = s.fifo := by
  rcases emit_cases x s with he | he | he <;> rw [he] <;> simp

/-- Settles O37: the command is one control transfer, and a transfer leaves ENC and PBT alone. -/
theorem controlLeavesEncoderAndFramer : Obligations.ControlLeavesEncoderAndFramer := by
  unfold Obligations.ControlLeavesEncoderAndFramer
  intro i req val s hi hhung hfault hc
  obtain ⟨o, hx⟩ := emit_transacts (ctrlTxn req val) hfault
  have heff : effect i s = (emit (ctrlTxn req val) s).2 := (effect_control hi).trans (controlTransfer_open hc)
  exact ⟨_, o, exec_of_effect_eq ⟨hhung, hfault⟩ heff, hx.out, emit_frame _ s⟩

/-! ### One transfer of `Drain`, by its outcome (R131) -/

theorem drain_one_ok (hl : 64 ≤ s.fifo.length) (hl' : s.fifo.length < 128) (ho : s.txOutcome s.packet = .ok) :
    drain s = { s with
      txAnswers := s.txAnswers.tail
      out := s.out ++ [(s.packet, .ok)]
      wptr := s.wptr.map (· + 64)
      sess := .streaming
      fifo := s.fifo.drop 64 } := by
  have hlen : (s.fifo.take Config.pktMax).length = 64 := List.length_take_of_le hl
  rw [drain_one hl hl', if_pos ho, ← hlen]
  rfl

theorem drain_one_fail (hf : s.fault = none) (hl : 64 ≤ s.fifo.length) (hl' : s.fifo.length < 128)
    (ho : s.txOutcome s.packet = .fail) :
    drain s = { s with
      txAnswers := s.txAnswers.tail
      out := s.out ++ [(s.packet, .fail)]
      wptr := none
      fault := some (.transportFailure (.transaction s.packet)) } := by
  have hemit : emit s.packet s = _ := emit_bulk_fail hf ho
  have hne : s.txOutcome s.packet ≠ .ok := ho.trans_ne nofun
  rw [drain_one hl hl', if_neg hne, hemit]
  rfl

theorem drain_one_stall (hl : 64 ≤ s.fifo.length) (hl' : s.fifo.length < 128) (ho : s.txOutcome s.packet = .stall) :
    drain s = { s with
      txAnswers := s.txAnswers.tail
      out := s.out ++ [(s.packet, .stall)]
      hung := some (.transaction s.packet) } := by
  have hne : s.txOutcome s.packet ≠ .ok := ho.trans_ne nofun
  rw [drain_one hl hl', if_neg hne, emit_stall ho]
  rfl

/-! ### The raster step (R112) -/

/-- Both pixel commands are the raster step of the pixel's bit. -/
theorem effect_pixel (px : Pixel) (s : State) : effect px.command s = rasterStep px.bit s := by
  cases px <;> rfl

/-- Settles O16: no session, and with one no dimensions. -/
theorem pixelPreconditions : Obligations.PixelPreconditions := by
  unfold Obligations.PixelPreconditions
  intro px s hhung hfault
  have hs : s.running := ⟨hhung, hfault⟩
  refine ⟨fun hc => ?notOpen, fun hc hdim => ?emptyImage⟩
  case notOpen => exact exec_of_effect_eq_violate hs ((effect_pixel px s).trans (rasterStep_closed hc))
  case emptyImage =>
    have hconf : ¬ s.configured := by rw [configured_iff]; tauto
    exact exec_of_effect_eq_violate hs ((effect_pixel px s).trans (rasterStep_unconfigured hc hconf))

/-- With a session and dimensions a pixel command assembles, advances and drains. -/
theorem exec_pixel (px : Pixel) (hs : s.running) (hc : s.sess ≠ .closed) (hconf : s.configured) :
    exec px.command s = .next (drain (s.assemble px.bit).advance) :=
  exec_of_effect_eq hs ((effect_pixel px s).trans (rasterStep_open hc hconf))

/-- Settles O17: the pixel does not complete its Word, and no packet waits. -/
theorem pixelInsideWord : Obligations.PixelInsideWord := by
  unfold Obligations.PixelInsideWord
  intro px s hhung hfault hc hW hH hlen hlane hlast
  have hcont : ¬ s.completesWord := not_or.mpr ⟨hlane, hlast⟩
  rw [exec_pixel px ⟨hhung, hfault⟩ hc (configured_iff.mpr ⟨hW, hH⟩), assemble_advance_of_continues _ hcont]
  exact congrArg _ (drain_short (Nat.lt_succ_of_le hlen))

/-- Settles O18: four bytes join at most 59, which is short of a packet. -/
theorem pixelCompletesWord : Obligations.PixelCompletesWord := by
  unfold Obligations.PixelCompletesWord
  intro px s hhung hfault hc hW hH hlen hcomp
  rw [exec_pixel px ⟨hhung, hfault⟩ hc (configured_iff.mpr ⟨hW, hH⟩), assemble_advance_of_completes _ hcomp]
  have hshort : (s.fifo ++ wordBytes (s.assembled px.bit)).length < 64 := by
    rw [List.length_append, wordBytes_length]; omega
  exact congrArg _ (drain_short hshort)

/-- Settles O19: four bytes join 60 to 63, so `Drain` makes its one transfer; its three outcomes. -/
theorem pixelCompletesPacket : Obligations.PixelCompletesPacket := by
  unfold Obligations.PixelCompletesPacket
  rintro px s u bytes x hhung hfault hc hW hH hmin hmax hcomp rfl rfl rfl
  rw [exec_pixel px ⟨hhung, hfault⟩ hc (configured_iff.mpr ⟨hW, hH⟩), assemble_advance_of_completes _ hcomp]
  have hlen : (s.fifo ++ wordBytes (s.assembled px.bit)).length = s.fifo.length + 4 := by
    rw [List.length_append, wordBytes_length]
  have hfull : 64 ≤ (s.fifo ++ wordBytes (s.assembled px.bit)).length := by omega
  have hone : (s.fifo ++ wordBytes (s.assembled px.bit)).length < 128 := by omega
  refine ⟨fun ho => ?ok, fun ho => ?fail, fun ho => ?stall⟩
  case ok => exact congrArg _ (drain_one_ok hfull hone ho)
  case fail => exact congrArg _ (drain_one_fail hfault hfull hone ho)
  case stall => exact congrArg _ (drain_one_stall hfull hone ho)

/-- The threshold of an intensity is its most significant bit. -/
theorem threshold_eq_msb : ∀ p : Byte, threshold p = p.extractLsb' 7 1 := by decide

/-- Settles O20: `PIX8` is the raster step of the threshold. -/
theorem intensityIsThresholdedPixel : Obligations.IntensityIsThresholdedPixel := by
  unfold Obligations.IntensityIsThresholdedPixel
  intro p s
  have hpix1 : exec (.pix8 p) s = exec (.pix1 (threshold p)) s := rfl
  exact ⟨threshold_eq p ▸ hpix1, threshold_eq_msb p ▸ hpix1⟩

/-! ### A transfer that never returns (R186) -/

/-- `FLUSH` whose transfer stalls. -/
theorem flushEffect_stall (hc : s.sess ≠ .closed) (hne : s.fifo ≠ []) (ho : s.txOutcome (.bulk 0x01 s.fifo) = .stall) :
    flushEffect s = { s with
      txAnswers := s.txAnswers.tail
      out := s.out ++ [(.bulk 0x01 s.fifo, .stall)]
      hung := some (.transaction (.bulk 0x01 s.fifo)) } := by
  have hemit : emit s.remainder s = _ := emit_stall ho
  rw [flushEffect, requireOpen_open hc, if_neg hne, hemit]
  rfl

/-- A control transfer that stalls. -/
theorem controlTransfer_stall (hc : s.sess ≠ .closed) (ho : s.txOutcome (ctrlTxn req val) = .stall) :
    controlTransfer req val s = { s with
      txAnswers := s.txAnswers.tail
      out := s.out ++ [(ctrlTxn req val, .stall)]
      hung := some (.transaction (ctrlTxn req val)) } := by
  rw [controlTransfer_open hc, emit_stall ho]
  rfl

/-- `BYTE` that completes a packet whose transfer stalls. -/
theorem byteEffect_stall (hc : s.sess ≠ .closed) (hl : s.fifo.length = 63)
    (ho : s.txOutcome (.bulk 0x01 (s.fifo ++ [d])) = .stall) :
    byteEffect d s = { s with
      txAnswers := s.txAnswers.tail
      fifo := s.fifo ++ [d]
      out := s.out ++ [(.bulk 0x01 (s.fifo ++ [d]), .stall)]
      hung := some (.transaction (.bulk 0x01 (s.fifo ++ [d]))) } := by
  have hlen : (s.append [d]).fifo.length = 64 := by simp [hl]
  have hpacket : (s.append [d]).packet = .bulk 0x01 (s.fifo ++ [d]) := packet_eq_of_length hlen
  rw [byteEffect_open hc, drain_one_stall hlen.ge (by omega) (hpacket ▸ ho), hpacket]
  rfl

/-- Settles O58, command by command. -/
theorem stallHangsTheBlock : Obligations.StallHangsTheBlock := by
  unfold Obligations.StallHangsTheBlock
  rintro s u hhung hfault rfl
  have hs : s.running := ⟨hhung, hfault⟩
  refine ⟨?byte, ?flush, ?control, fun hc ho => ?openDev⟩
  case byte =>
    rintro d x hc hl rfl ho
    exact exec_of_effect_eq hs (byteEffect_stall hc hl ho)
  case flush =>
    rintro x hc hne - rfl ho
    exact exec_of_effect_eq hs (flushEffect_stall hc hne ho)
  case control =>
    rintro i req val x hi hc rfl ho
    exact exec_of_effect_eq hs ((effect_control hi).trans (controlTransfer_stall hc ho))
  case openDev => exact exec_of_effect_eq hs (openEffect_stall hc ho)

end Sys2Proof.Machine
end

section
/-! The invariants (10_state.md sections 3, 4, 7, 8, 10): what holds between commands, what the history says, and the shadow
registers as functions of it. Each holds at reset and is kept by every effect, so every step keeps it. -/

namespace Sys2Proof.Machine

variable {s t u : State} {x : Txn} {o : TxOutcome} {e : Exc}

/-- What every step keeps: what a reset by the host gives, and what moving past a word, raising a violation and the effect
of a command keep. -/
theorem step_keeps {P : State → Prop} (hreset : ∀ s rest, P (restart rest s))
    (hhost : ∀ s rest, P s → P { s with host := rest })
    (hviolate : ∀ s r, s.running → P s → P (s.violate r))
    (heffect : ∀ i s, s.running → P s → P (effect i s)) (hs : P s) (hstep : step s = .next t) : P t := by
  obtain ⟨rest, -, rfl⟩ | ⟨hh, ⟨-, rfl⟩ | ⟨cw, rest, -, ⟨-, rfl⟩ | ⟨hf, ⟨i, -, rfl⟩ | rfl⟩⟩⟩ := step_cases hstep
  · exact hreset s rest
  · exact hs
  · exact hhost s rest hs
  · exact heffect i _ ⟨hh, hf⟩ (hhost s rest hs)
  · exact hviolate _ _ ⟨hh, hf⟩ (hhost s rest hs)

/-! ### Between commands (R28 items 1 to 4) -/

/-- The part of `Tidy` that is about the encoder's registers. -/
structure State.RasterTidy (s : State) : Prop where
  unconfigured : s.W = 0 ∨ s.H = 0 → s.rx = 0 ∧ s.ry = 0 ∧ s.acc = 0
  raster : 0 < s.W → 0 < s.H → s.rx < s.W ∧ s.ry < s.H
  acc_clear : ∀ k < 32, s.lane ≤ k → s.acc.getLsbD k = false

theorem State.Tidy.rasterTidy (h : s.Tidy) : s.RasterTidy := ⟨h.unconfigured, h.raster, h.acc_clear⟩

/-- A state is tidy if its encoder's registers are those of a tidy state and the framer's bounds hold. -/
theorem State.RasterTidy.tidy (h : s.RasterTidy) (hW : t.W = s.W) (hH : t.H = s.H) (hrx : t.rx = s.rx)
    (hry : t.ry = s.ry) (hacc : t.acc = s.acc) (hshort : t.fault = none → t.hung = none → t.fifo.length ≤ 63)
    (hbound : t.fifo.length ≤ 67) : t.Tidy where
  fifo_short := hshort
  fifo_bound := hbound
  unconfigured := by rw [hW, hH, hrx, hry, hacc]; exact h.unconfigured
  raster := by rw [hW, hH, hrx, hry]; exact h.raster
  acc_clear := by rw [State.lane, hrx, hacc]; exact h.acc_clear

theorem reset_tidy : State.reset.Tidy where
  fifo_short := by decide
  fifo_bound := by decide
  unconfigured := by decide
  raster := by decide
  acc_clear := by decide

theorem restart_tidy (s : State) (rest : List HostInput) : (restart rest s).Tidy :=
  reset_tidy.rasterTidy.tidy rfl rfl rfl rfl rfl reset_tidy.fifo_short reset_tidy.fifo_bound

/-- A latched fault lifts the bound of item 1, and changes nothing else. -/
theorem raise_tidy (h : s.RasterTidy) (hl : s.fifo.length ≤ 67) : (s.raise e).Tidy :=
  h.tidy (s.raise_W e) (s.raise_H e) (s.raise_rx e) (s.raise_ry e) (s.raise_acc e)
    (fun hf => by simp at hf) (by simpa using hl)

/-- A transfer that fails or stalls keeps the encoder's registers and the accumulator, and item 1 no longer binds. -/
theorem stopped_tidy (x : Txn) (h : s.RasterTidy) (hl : s.fifo.length ≤ 67) :
    (((s.record x .fail).update x .fail).raise e).Tidy ∧
      State.Tidy { s.record x .stall with hung := some (.transaction x) } :=
  ⟨raise_tidy ⟨h.unconfigured, h.raster, h.acc_clear⟩ hl, h.tidy rfl rfl rfl rfl rfl nofun hl⟩

/-- `Drain` brings the accumulator of a command that has appended its bytes below 64 again, or stops. -/
theorem drain_tidy (h : u.RasterTidy) (hl : u.fifo.length ≤ 67) : (drain u).Tidy := by
  obtain ⟨hfail, hstall⟩ := stopped_tidy (e := .transportFailure (.transaction u.packet)) u.packet h hl
  obtain ⟨hshort, hd⟩ | ⟨-, hd | hd | hd⟩ := drain_cases (s := u) (by omega) <;> rw [hd]
  · exact h.tidy rfl rfl rfl rfl rfl (fun _ _ => by omega) hl
  · have hdrop : (u.fifo.drop 64).length ≤ 3 := by rw [List.length_drop]; omega
    exact h.tidy rfl rfl rfl rfl rfl (fun _ _ => hdrop.trans (by decide)) (hdrop.trans (by decide))
  · exact hfail
  · exact hstall

/-- The pixel's contribution lies in its lane alone. -/
theorem getLsbD_pixelMask (b : Bit) (k i : Nat) (h : i ≠ k) : (pixelMask b k).getLsbD i = false := by
  rw [pixelMask, BitVec.getLsbD_shiftLeft]
  by_cases hk : i < k
  · simp [hk]
  · simp [BitVec.getLsbD_of_ge b (i - k) (by omega)]

/-- The next raster position is inside the image, and the Word under assembly is clear from its lane up. -/
theorem assemble_advance_rasterTidy (b : Bit) (hc : s.configured) (h : s.RasterTidy) :
    (s.assemble b).advance.RasterTidy := by
  obtain ⟨hrx, hry⟩ := h.raster hc.1 hc.2
  have hdim : ¬ (s.W = 0 ∨ s.H = 0) := not_or.mpr (configured_iff.mp hc)
  by_cases hw : s.completesWord
  · rw [assemble_advance_of_completes b hw]
    refine ⟨fun hz => absurd hz hdim, fun hW hH => ⟨?column, ?row⟩, fun k _ _ => BitVec.getLsbD_zero⟩
    case column => dsimp only; split <;> bv_omega
    case row => dsimp only; split_ifs <;> bv_omega
  · obtain ⟨hlane, hlast⟩ := not_or.mp hw
    rw [assemble_advance_of_continues b hw]
    refine ⟨fun hz => absurd hz hdim, fun _ _ => ⟨?column, hry⟩, fun k hk hle => ?acc⟩
    case column => dsimp only at *; bv_omega
    case acc =>
      have hnext : s.lane + 1 ≤ k := by
        simp only [State.lane, Config.wordBits] at hlane hle ⊢
        bv_omega
      have hold : s.acc.getLsbD k = false := h.acc_clear k hk (by omega)
      simp [State.assembled, hold, getLsbD_pixelMask b s.lane k (by omega)]

theorem effect_tidy (i : Instr) (s : State) (hs : s.running) (h : s.Tidy) : (effect i s).Tidy := by
  have hr : s.RasterTidy := h.rasterTidy
  have hl : s.fifo.length ≤ 63 := h.fifo_short hs.2 hs.1
  have hl' : s.fifo.length ≤ 67 := h.fifo_bound
  apply effect_induction State.Tidy i s
  case hidle => exact h
  case hviolate => exact fun _ => raise_tidy hr hl'
  case hopen =>
    exact fun _ _ => ⟨hr.tidy rfl rfl rfl rfl rfl h.fifo_short hl', hr.tidy rfl rfl rfl rfl rfl nofun hl',
      raise_tidy ⟨hr.unconfigured, hr.raster, hr.acc_clear⟩ hl',
      raise_tidy ⟨hr.unconfigured, hr.raster, hr.acc_clear⟩ hl'⟩
  case hsetW =>
    intro w _ hstart hw
    exact ⟨h.fifo_short, hl', fun hz => h.unconfigured (.inr (hz.resolve_left hw)), fun hW hH => by
      rw [hstart.1, hstart.2]; exact ⟨hW, hH⟩, h.acc_clear⟩
  case hsetH =>
    intro w _ hstart hw
    exact ⟨h.fifo_short, hl', fun hz => h.unconfigured (.inl (hz.resolve_right hw)), fun hW hH => by
      rw [hstart.1, hstart.2]; exact ⟨hW, hH⟩, h.acc_clear⟩
  case hpixel =>
    intro b _ _ hc
    have hlen := assemble_advance_fifo_length (s := s) b
    exact drain_tidy (assemble_advance_rasterTidy b hc hr) (by omega)
  case hbyte =>
    intro d _ _
    exact drain_tidy ⟨hr.unconfigured, hr.raster, hr.acc_clear⟩ (by simp; omega)
  case hflush =>
    exact fun _ _ _ => ⟨hr.tidy rfl rfl rfl rfl rfl (fun _ _ => Nat.zero_le _) (Nat.zero_le _),
      stopped_tidy s.remainder hr hl'⟩
  case hcontrol =>
    intro req val _ _
    obtain ⟨hfail, hstall⟩ := stopped_tidy (e := .transportFailure (.transaction (ctrlTxn req val))) _ hr hl'
    rcases emit_cases (ctrlTxn req val) s with he | he | he <;> rw [he]
    · exact hr.tidy rfl rfl rfl rfl rfl h.fifo_short hl'
    · exact hfail
    · exact hstall

/-- Settles O41. -/
theorem tidyKeptByEveryStep : Obligations.TidyKeptByEveryStep := by
  unfold Obligations.TidyKeptByEveryStep
  exact fun _ _ => step_keeps restart_tidy
    (fun _ _ h => h.rasterTidy.tidy rfl rfl rfl rfl rfl h.fifo_short h.fifo_bound)
    (fun _ _ _ h => raise_tidy h.rasterTidy h.fifo_bound) effect_tidy

/-! ### The history (R17, R50, R187) -/

/-- The history's invariant looks at `out`, the latch, the stall and the session alone. -/
theorem State.HistoryOk.of_eq (h : s.HistoryOk) (hout : t.out = s.out) (hfault : t.fault = s.fault)
    (hhung : t.hung = s.hung) (hsess : t.sess = s.sess) : t.HistoryOk where
  legal := by rw [hout]; exact h.legal
  all_ok_but_last := by rw [hout]; exact h.all_ok_but_last
  running_ok := by rw [hout, hfault, hhung]; exact h.running_ok
  failed_last := by rw [hout, hfault]; exact h.failed_last
  hung_last := by rw [hout, hhung]; exact h.hung_last
  hung_no_fault := by rw [hfault, hhung]; exact h.hung_no_fault
  closed_silent := by rw [hout, hsess]; exact h.closed_silent

theorem reset_historyOk : State.reset.HistoryOk where
  legal := nofun
  all_ok_but_last := by decide
  running_ok := by decide
  failed_last := nofun
  hung_last := nofun
  hung_no_fault := by decide
  closed_silent := by decide

/-- A running block that latches an exception which no transaction caused. -/
theorem raise_historyOk (hs : s.running) (h : s.HistoryOk) (he : ∀ y, e ≠ .transportFailure (.transaction y)) :
    (s.raise e).HistoryOk := by
  rw [s.raise_of_none e hs.2]
  exact ⟨h.legal, h.all_ok_but_last, nofun, fun y hy => absurd (Option.some.inj hy) (he y), h.hung_last,
    fun hne => absurd hs.1 hne, h.closed_silent⟩

/-- A running block with a session makes one legal transaction: it is the last, and stops the block unless `ok`. -/
theorem transacts_historyOk (hs : s.running) (hc : s.sess ≠ .closed) (h : s.HistoryOk) (hx : x.legal)
    (ht : Transacts x o s t) (hfault : o ≠ .fail → t.fault = none) (hhung : o ≠ .stall → t.hung = none) :
    t.HistoryOk where
  legal := by
    rw [ht.out, List.forall_mem_append, List.forall_mem_singleton]
    exact ⟨h.legal, hx⟩
  all_ok_but_last := by
    rw [ht.out, List.dropLast_concat]
    exact h.running_ok hs.2 hs.1
  running_ok hf hh := by
    rw [ht.out, List.forall_mem_append, List.forall_mem_singleton]
    refine ⟨h.running_ok hs.2 hs.1, ?_⟩
    cases o with
    | ok => rfl
    | fail => cases (ht.fault rfl).symm.trans hf
    | stall => cases (ht.hung rfl).symm.trans hh
  failed_last y hy := by
    by_cases ho : o = .fail
    · subst ho
      cases (ht.fault rfl).symm.trans hy
      rw [ht.out, List.getLast?_concat]
    · cases (hfault ho).symm.trans hy
  hung_last y hy := by
    by_cases ho : o = .stall
    · subst ho
      cases (ht.hung rfl).symm.trans hy
      rw [ht.out, List.getLast?_concat]
    · cases (hhung ho).symm.trans hy
  hung_no_fault hne := by
    have ho : o = .stall := by_contra fun ho => hne (hhung ho)
    exact hfault (ho.trans_ne nofun)
  closed_silent hclosed := by
    rw [ht.sess, sessAfter_eq] at hclosed
    split_ifs at hclosed
    exact absurd hclosed hc

theorem transacted_ok_historyOk (rest : List Byte) (hs : s.running) (hc : s.sess ≠ .closed) (h : s.HistoryOk)
    (hx : x.legal) : State.HistoryOk { (s.record x .ok).update x .ok with fifo := rest } :=
  transacts_historyOk hs hc h hx (transacts_ok x s rest) (fun _ => hs.2) (fun _ => hs.1)

theorem transacted_fail_historyOk (hs : s.running) (hc : s.sess ≠ .closed) (h : s.HistoryOk) (hx : x.legal) :
    (((s.record x .fail).update x .fail).raise (.transportFailure (.transaction x))).HistoryOk :=
  transacts_historyOk hs hc h hx (transacts_fail x hs.2) (fun hne => absurd rfl hne)
    (fun _ => (State.raise_hung _ _).trans hs.1)

theorem transacted_stall_historyOk (hs : s.running) (hc : s.sess ≠ .closed) (h : s.HistoryOk) (hx : x.legal) :
    State.HistoryOk { s.record x .stall with hung := some (.transaction x) } :=
  transacts_historyOk hs hc h hx (transacts_stall x s) (fun _ => hs.2) (fun hne => absurd rfl hne)

/-- A full packet is a legal transaction. -/
theorem packet_legal (hl : 64 ≤ s.fifo.length) : s.packet.legal := by
  simp [State.packet, Txn.legal, Config.pktMax]
  omega

/-- What `FLUSH` sends between commands is a legal transaction. -/
theorem remainder_legal (hne : s.fifo ≠ []) (hl : s.fifo.length ≤ 63) : s.remainder.legal :=
  ⟨rfl, List.length_pos_iff.mpr hne, hl.trans (by decide)⟩

/-- Every control command's transaction is legal. -/
theorem ctrlTxn_legal {i : Instr} {req : Byte} {val : Half} (hi : i.controlRequest = some (req, val)) :
    (ctrlTxn req val).legal := by
  refine ⟨rfl, rfl, ?_⟩
  cases i with
  | openDev | setW | setH | pix8 | pix1 | byte | flush => cases hi
  | resetWriteptr => cases hi; exact .inl ⟨rfl, rfl⟩
  | panelOnoff v =>
    cases hi
    have hv : (onoffValue v).toNat ≤ 1 := by revert v; decide
    exact .inr (.inl ⟨rfl, hv⟩)
  | panelBrightness n => cases hi; exact .inr (.inr rfl)

theorem drain_historyOk (hu : u.running) (hc : u.sess ≠ .closed) (h : u.HistoryOk) (hl : u.fifo.length < 128) :
    (drain u).HistoryOk := by
  obtain ⟨-, hd⟩ | ⟨hfull, hd | hd | hd⟩ := drain_cases hl <;> rw [hd]
  · exact h
  · exact transacted_ok_historyOk _ hu hc h (packet_legal hfull)
  · exact transacted_fail_historyOk hu hc h (packet_legal hfull)
  · exact transacted_stall_historyOk hu hc h (packet_legal hfull)

theorem effect_historyOk (i : Instr) (s : State) (hs : s.running) (hl : s.fifo.length ≤ 63) (h : s.HistoryOk) :
    (effect i s).HistoryOk := by
  have opened (sess : Sess) (hsess : sess ≠ .closed) (answers : List OpenOutcome) :
      State.HistoryOk { s with openAnswers := answers, sess := sess } :=
    ⟨h.legal, h.all_ok_but_last, h.running_ok, h.failed_last, h.hung_last, h.hung_no_fault, fun hc => absurd hc hsess⟩
  apply effect_induction State.HistoryOk i s
  case hidle => exact h
  case hviolate => exact fun _ => raise_historyOk hs h nofun
  case hopen =>
    exact fun _ _ => ⟨opened .configured nofun _,
      ⟨h.legal, h.all_ok_but_last, nofun, h.failed_last, nofun, fun _ => hs.2, h.closed_silent⟩,
      raise_historyOk hs (h.of_eq rfl rfl rfl rfl) nofun, raise_historyOk hs (h.of_eq rfl rfl rfl rfl) nofun⟩
  case hsetW => exact fun _ _ _ _ => h.of_eq rfl rfl rfl rfl
  case hsetH => exact fun _ _ _ _ => h.of_eq rfl rfl rfl rfl
  case hpixel =>
    intro b _ hc _
    have hlen := assemble_advance_fifo_length (s := s) b
    have hu : (s.assemble b).advance.running := ⟨by simpa using hs.1, by simpa using hs.2⟩
    exact drain_historyOk hu (by simpa using hc) (h.of_eq (by simp) (by simp) (by simp) (by simp)) (by omega)
  case hbyte =>
    exact fun _ _ hc => drain_historyOk hs hc (h.of_eq rfl rfl rfl rfl) (by simp; omega)
  case hflush =>
    exact fun _ hc hne => ⟨transacted_ok_historyOk _ hs hc h (remainder_legal hne hl),
      transacted_fail_historyOk hs hc h (remainder_legal hne hl),
      transacted_stall_historyOk hs hc h (remainder_legal hne hl)⟩
  case hcontrol =>
    intro req val hi hc
    have hx := ctrlTxn_legal hi
    rcases emit_cases (ctrlTxn req val) s with he | he | he <;> rw [he]
    · exact transacted_ok_historyOk s.fifo hs hc h hx
    · exact transacted_fail_historyOk hs hc h hx
    · exact transacted_stall_historyOk hs hc h hx

/-- Settles O42: kept together with `Tidy`, whose bound on the accumulator makes every transaction legal. -/
theorem historyKeptByEveryStep : Obligations.HistoryKeptByEveryStep := by
  unfold Obligations.HistoryKeptByEveryStep
  intro s t htidy hhist hstep
  refine (step_keeps (P := fun s => s.Tidy ∧ s.HistoryOk) (fun s rest => ?reset) (fun s rest h => ?host)
    (fun s r hs h => ?violate) (fun i s hs h => ?effect) ⟨htidy, hhist⟩ hstep).2
  case reset => exact ⟨restart_tidy s rest, reset_historyOk.of_eq rfl rfl rfl rfl⟩
  case host =>
    exact ⟨h.1.rasterTidy.tidy rfl rfl rfl rfl rfl h.1.fifo_short h.1.fifo_bound, h.2.of_eq rfl rfl rfl rfl⟩
  case violate => exact ⟨raise_tidy h.1.rasterTidy h.1.fifo_bound, raise_historyOk hs h.2 nofun⟩
  case effect => exact ⟨effect_tidy i s hs h.1, effect_historyOk i s hs (h.1.fifo_short hs.2 hs.1) h.2⟩

/-! ### The shadows (R22 to R24, R26) -/

/-- What an entry added at the end does to "since the last successful control transaction". -/
theorem sinceControl_concat (out : List Event) (e : Event) :
    sinceControl (out ++ [e]) =
      if e.1.isCtrl ∧ e.2 = .ok then some [] else (sinceControl out).map (· ++ [e]) := by
  induction out with
  | nil => rfl
  | cons f out ih =>
    rw [List.cons_append, sinceControl, ih, sinceControl]
    by_cases he : e.1.isCtrl ∧ e.2 = .ok
    · simp [he]
    · cases sinceControl out with
      | some es => simp [he]
      | none => by_cases hf : f.1.isCtrl ∧ f.2 = .ok <;> simp [he, hf]

theorem delivered_concat (out : List Event) (e : Event) : delivered (out ++ [e]) = delivered out ++ eventBytes e := by
  simp [delivered]

/-- The pointer after the entries `es` that follow a successful control transaction: the bytes they delivered, unknown
once one failed. -/
def wptrSince (es : List Event) : Option Nat :=
  if es.any (fun e => e.2 == .fail) then none else some (delivered es).length

theorem wptrOf_eq_bind (out : List Event) : wptrOf out = (sinceControl out).bind wptrSince := by
  rw [wptrOf]
  cases sinceControl out <;> rfl

/-- An entry that is no successful control transaction moves the pointer as `Update` does. -/
theorem wptrSince_concat (es : List Event) (hx : ¬ (x.isCtrl ∧ o = .ok)) :
    wptrSince (es ++ [(x, o)]) = wptrAfter x o (wptrSince es) := by
  rw [wptrSince, wptrSince, delivered_concat, List.any_append, List.length_append]
  cases o with
  | fail => simp [wptrAfter]
  | stall =>
    have hany : (es.any (fun e => e.2 == .fail) || [(x, TxOutcome.stall)].any (fun e => e.2 == .fail)) =
        es.any (fun e => e.2 == .fail) := Bool.or_false _
    have hbytes : eventBytes (x, .stall) = [] := rfl
    rw [hany, hbytes]
    rfl
  | ok =>
    cases x with
    | ctrl bm req val idx => exact absurd ⟨rfl, rfl⟩ hx
    | bulk ep bytes => by_cases hfail : es.any (fun e => e.2 == .fail) = true <;>
        simp [hfail, wptrAfter, eventBytes, Txn.payload]

/-- An unknown pointer becomes known by a successful control transaction alone. -/
theorem wptrAfter_none (hx : ¬ (x.isCtrl ∧ o = .ok)) : wptrAfter x o none = none := by
  cases o with
  | fail => rfl
  | stall => rfl
  | ok =>
    cases x with
    | ctrl bm req val idx => exact absurd ⟨rfl, rfl⟩ hx
    | bulk ep bytes => rfl

/-- The pointer read off the history moves as `Update` moves the shadow (R159). -/
theorem wptrOf_concat (out : List Event) (x : Txn) (o : TxOutcome) :
    wptrOf (out ++ [(x, o)]) = wptrAfter x o (wptrOf out) := by
  rw [wptrOf_eq_bind, wptrOf_eq_bind, sinceControl_concat]
  by_cases hx : x.isCtrl ∧ o = .ok
  · rw [if_pos hx]
    obtain ⟨hctrl, rfl⟩ := hx
    cases x with
    | ctrl bm req val idx => rfl
    | bulk ep bytes => cases hctrl
  · rw [if_neg hx]
    cases sinceControl out with
    | none => exact (wptrAfter_none hx).symm
    | some es => exact wptrSince_concat es hx

/-- A later answered request goes before an earlier one. -/
theorem lastRequest_cons (req : Byte) (e : Event) (rest : List Event) :
    lastRequest req (e :: rest) = (lastRequest req rest).or (lastRequest req [e]) := by
  cases h : lastRequest req rest <;> simp [lastRequest, h]

/-- What an entry added at the end does to "the last answered request". -/
theorem lastRequest_concat (req : Byte) (out : List Event) (e : Event) :
    lastRequest req (out ++ [e]) = (lastRequest req [e]).or (lastRequest req out) := by
  induction out with
  | nil => exact Option.or_none.symm
  | cons f out ih => rw [List.cons_append, lastRequest_cons, ih, lastRequest_cons req f out, Option.or_assoc]

theorem lastRequest_ctrl (req bm r : Byte) (val idx : Half) (o : TxOutcome) :
    lastRequest req [(.ctrl bm r val idx, o)] = if r = req ∧ o ≠ .stall then some (val, o) else none := rfl

theorem lastRequest_bulk (req ep : Byte) (bytes : List Byte) (o : TxOutcome) :
    lastRequest req [(.bulk ep bytes, o)] = none := rfl

/-- The value read off the history: a successful request sets it, a failed one makes it unknown, and anything else leaves
it (R159). -/
theorem lastValue_concat_ctrl (req bm r : Byte) (val idx : Half) (o : TxOutcome) (out : List Event) :
    lastValue req (out ++ [(.ctrl bm r val idx, o)]) =
      match o with
      | .ok => if r = req then some val else lastValue req out
      | .fail => if r = req then none else lastValue req out
      | .stall => lastValue req out := by
  rw [lastValue, lastRequest_concat, lastRequest_ctrl]
  cases o <;> by_cases hr : r = req <;> simp [hr, lastValue]

theorem lastValue_concat_bulk (req ep : Byte) (bytes : List Byte) (o : TxOutcome) (out : List Event) :
    lastValue req (out ++ [(.bulk ep bytes, o)]) = lastValue req out := by
  rw [lastValue, lastRequest_concat, lastRequest_bulk]
  rfl

theorem panelOnAfter_lastValue (x : Txn) (o : TxOutcome) (out : List Event) :
    panelOnAfter x o ((lastValue Config.reqPanelOnoff out).map onoffShadow) =
      (lastValue Config.reqPanelOnoff (out ++ [(x, o)])).map onoffShadow := by
  cases x with
  | ctrl bm r val idx => rw [lastValue_concat_ctrl]; cases o <;> simp only [panelOnAfter] <;> split <;> rfl
  | bulk ep bytes => rw [lastValue_concat_bulk]; cases o <;> rfl

theorem brightAfter_lastValue (x : Txn) (o : TxOutcome) (out : List Event) :
    brightAfter x o (lastValue Config.reqPanelBrightness out) =
      lastValue Config.reqPanelBrightness (out ++ [(x, o)]) := by
  cases x with
  | ctrl bm r val idx => rw [lastValue_concat_ctrl]; cases o <;> rfl
  | bulk ep bytes => rw [lastValue_concat_bulk]; cases o <;> rfl

/-- The shadows' invariant looks at the three shadows and `out` alone. -/
theorem State.ShadowsOfOut.of_eq (h : s.ShadowsOfOut) (hwptr : t.wptr = s.wptr) (hpanel : t.panelOn = s.panelOn)
    (hbright : t.bright = s.bright) (hout : t.out = s.out) : t.ShadowsOfOut where
  wptr_eq := by rw [hwptr, hout]; exact h.wptr_eq
  panelOn_eq := by rw [hpanel, hout]; exact h.panelOn_eq
  bright_eq := by rw [hbright, hout]; exact h.bright_eq

theorem reset_shadowsOfOut : State.reset.ShadowsOfOut := ⟨rfl, rfl, rfl⟩

theorem raise_shadowsOfOut (h : s.ShadowsOfOut) : (s.raise e).ShadowsOfOut :=
  h.of_eq (s.raise_wptr e) (s.raise_panelOn e) (s.raise_bright e) (s.raise_out e)

/-- Recording a transaction and updating the shadows go together. -/
theorem record_update_shadowsOfOut (x : Txn) (o : TxOutcome) (h : s.ShadowsOfOut) :
    ((s.record x o).update x o).ShadowsOfOut where
  wptr_eq := by simp [h.wptr_eq, wptrOf_concat]
  panelOn_eq := by simp [h.panelOn_eq, panelOnAfter_lastValue]
  bright_eq := by simp [h.bright_eq, brightAfter_lastValue]

/-- A stalled transaction is recorded, and leaves every shadow as it is. -/
theorem record_stall_shadowsOfOut (x : Txn) (h : s.ShadowsOfOut) : (s.record x .stall).ShadowsOfOut :=
  update_stall (s := s.record x .stall) x ▸ record_update_shadowsOfOut x .stall h

theorem emit_shadowsOfOut (x : Txn) (h : s.ShadowsOfOut) : (emit x s).2.ShadowsOfOut := by
  rcases emit_cases x s with he | he | he <;> rw [he]
  · exact record_update_shadowsOfOut x .ok h
  · exact raise_shadowsOfOut (record_update_shadowsOfOut x .fail h)
  · exact (record_stall_shadowsOfOut x h).of_eq rfl rfl rfl rfl

theorem drain_shadowsOfOut (h : u.ShadowsOfOut) : (drain u).ShadowsOfOut :=
  drainLoop_induction State.ShadowsOfOut
    (fun s hs _ => (record_update_shadowsOfOut s.packet .ok hs).of_eq rfl rfl rfl rfl)
    (fun s hs _ _ => emit_shadowsOfOut s.packet hs) _ u h

theorem effect_shadowsOfOut (i : Instr) (s : State) (h : s.ShadowsOfOut) : (effect i s).ShadowsOfOut := by
  apply effect_induction State.ShadowsOfOut i s
  case hidle => exact h
  case hviolate => exact fun _ => raise_shadowsOfOut h
  case hopen =>
    exact fun _ _ => ⟨h.of_eq rfl rfl rfl rfl, h.of_eq rfl rfl rfl rfl,
      raise_shadowsOfOut (h.of_eq rfl rfl rfl rfl), raise_shadowsOfOut (h.of_eq rfl rfl rfl rfl)⟩
  case hsetW => exact fun _ _ _ _ => h.of_eq rfl rfl rfl rfl
  case hsetH => exact fun _ _ _ _ => h.of_eq rfl rfl rfl rfl
  case hpixel =>
    exact fun b _ _ _ => drain_shadowsOfOut (h.of_eq (by simp) (by simp) (by simp) (by simp))
  case hbyte => exact fun _ _ _ => drain_shadowsOfOut (h.of_eq rfl rfl rfl rfl)
  case hflush =>
    exact fun _ _ _ => ⟨(record_update_shadowsOfOut s.remainder .ok h).of_eq rfl rfl rfl rfl,
      raise_shadowsOfOut (record_update_shadowsOfOut s.remainder .fail h),
      (record_stall_shadowsOfOut s.remainder h).of_eq rfl rfl rfl rfl⟩
  case hcontrol => exact fun req val _ _ => emit_shadowsOfOut (ctrlTxn req val) h

/-- Settles O43. -/
theorem shadowsAreFunctionsOfOut : Obligations.ShadowsAreFunctionsOfOut := by
  unfold Obligations.ShadowsAreFunctionsOfOut
  exact fun _ _ => step_keeps (fun _ _ => reset_shadowsOfOut.of_eq rfl rfl rfl rfl)
    (fun _ _ h => h.of_eq rfl rfl rfl rfl) (fun _ _ _ h => raise_shadowsOfOut h)
    (fun i s _ h => effect_shadowsOfOut i s h)

/-- Settles O44: the reset state. -/
theorem invariantsAtReset : Obligations.InvariantsAtReset := by
  unfold Obligations.InvariantsAtReset
  exact ⟨reset_tidy, reset_historyOk, reset_shadowsOfOut⟩

end Sys2Proof.Machine
end

section
/-! What one command can do to the whole machine (10_state.md sections 1, 2, 4, 10, 60_exceptions.md sections 2 to 4): at
most one transaction, the elements each command writes, every byte kept, and completion unless a transfer stalls. -/

namespace Sys2Proof.Machine

variable {s t u : State} {i : Instr} {x : Txn} {o : TxOutcome} {b : Bit} {d : Byte}

/-! ### At most one legal transaction -/

/-- `out` is as it was, or one legal transaction longer. -/
def GrowsByOne (out out' : List Event) : Prop := out' = out ∨ ∃ x o, out' = out ++ [(x, o)] ∧ x.legal

theorem growsByOne_transaction (x : Txn) (o : TxOutcome) (out : List Event) (hx : x.legal) :
    GrowsByOne out (out ++ [(x, o)]) := .inr ⟨x, o, rfl, hx⟩

theorem emit_out (x : Txn) (s : State) : (emit x s).2.out = s.out ++ [(x, s.txOutcome x)] := by
  cases ho : s.txOutcome x with
  | ok => rw [emit_ok ho]; rfl
  | fail => rw [emit_fail ho]; exact State.raise_out _ _
  | stall => rw [emit_stall ho]; rfl

theorem emit_fifo (x : Txn) (s : State) : (emit x s).2.fifo = s.fifo := by
  obtain ⟨-, -, -, -, -, hfifo⟩ := emit_frame x s
  exact hfifo

theorem drain_growsByOne (hl : u.fifo.length < 128) : GrowsByOne u.out (drain u).out := by
  obtain ⟨-, hd⟩ | ⟨hfull, hd | hd | hd⟩ := drain_cases hl <;> rw [hd]
  · exact .inl rfl
  · exact growsByOne_transaction _ .ok _ (packet_legal hfull)
  · rw [State.raise_out]; exact growsByOne_transaction _ .fail _ (packet_legal hfull)
  · exact growsByOne_transaction _ .stall _ (packet_legal hfull)

theorem effect_growsByOne (i : Instr) (hl : s.fifo.length ≤ 63) : GrowsByOne s.out (effect i s).out := by
  apply effect_induction (fun t => GrowsByOne s.out t.out) i s
  case hidle => exact .inl rfl
  case hviolate => exact fun _ => .inl (State.violate_out _ _)
  case hopen => exact fun _ _ => ⟨.inl rfl, .inl rfl, .inl (State.raise_out _ _), .inl (State.raise_out _ _)⟩
  case hsetW => exact fun _ _ _ _ => .inl rfl
  case hsetH => exact fun _ _ _ _ => .inl rfl
  case hpixel =>
    intro b _ _ _
    have hlen := assemble_advance_fifo_length (s := s) b
    simpa using drain_growsByOne (u := (s.assemble b).advance) (by omega)
  case hbyte => exact fun _ _ _ => drain_growsByOne (by simp; omega)
  case hflush =>
    intro _ _ hne
    have hx := remainder_legal hne hl
    refine ⟨growsByOne_transaction _ .ok _ hx, ?_, growsByOne_transaction _ .stall _ hx⟩
    rw [State.raise_out]
    exact growsByOne_transaction _ .fail _ hx
  case hcontrol =>
    intro req val hi _
    rw [emit_out]
    exact growsByOne_transaction _ _ _ (ctrlTxn_legal hi)

/-- Settles O46. -/
theorem atMostOneLegalTransaction : Obligations.AtMostOneLegalTransaction := by
  unfold Obligations.AtMostOneLegalTransaction
  intro i s t hexec hl
  obtain ⟨-, ⟨-, rfl⟩ | ⟨-, rfl⟩⟩ := exec_cases hexec
  · exact .inl rfl
  · exact effect_growsByOne i hl

/-! ### Which command writes which element (R10) -/

/-- A command writes only the elements that R10 lists for it. -/
structure WritesOwn (i : Instr) (s t : State) : Prop where
  W : (∀ w, i ≠ .setW w) → t.W = s.W
  H : (∀ h, i ≠ .setH h) → t.H = s.H
  raster : i.isPixel = false → t.rx = s.rx ∧ t.ry = s.ry ∧ t.acc = s.acc
  fifo : i.isAppending = false → i ≠ .flush → t.fifo = s.fifo
  panelOn : (∀ v, i ≠ .panelOnoff v) → t.panelOn = s.panelOn
  bright : (∀ n, i ≠ .panelBrightness n) → t.bright = s.bright
  device : i.needsDevice = false → t.out = s.out ∧ t.wptr = s.wptr
  host : t.host = s.host
  panelH : t.panelH = s.panelH

/-- What neither a transfer nor the framer writes. -/
structure KeptByTransfer (s t : State) : Prop where
  W : t.W = s.W
  H : t.H = s.H
  raster : t.rx = s.rx ∧ t.ry = s.ry ∧ t.acc = s.acc
  host : t.host = s.host
  panelH : t.panelH = s.panelH

/-- What a bulk transfer does not write either. -/
structure KeptByBulk (s t : State) : Prop extends KeptByTransfer s t where
  panelOn : t.panelOn = s.panelOn
  bright : t.bright = s.bright

theorem emit_keptByTransfer (x : Txn) (s : State) : KeptByTransfer s (emit x s).2 := by
  rcases emit_cases x s with he | he | he <;> rw [he] <;> constructor <;> simp

theorem panelOnAfter_bulk (ep : Byte) (bytes : List Byte) (o : TxOutcome) (p : Option Bit) :
    panelOnAfter (.bulk ep bytes) o p = p := by cases o <;> rfl

theorem brightAfter_bulk (ep : Byte) (bytes : List Byte) (o : TxOutcome) (p : Option Half) :
    brightAfter (.bulk ep bytes) o p = p := by cases o <;> rfl

/-- A control transfer with another request leaves the switch's shadow. -/
theorem panelOnAfter_ctrl {req : Byte} (hreq : req ≠ Config.reqPanelOnoff) (val : Half) (o : TxOutcome) (p : Option Bit) :
    panelOnAfter (ctrlTxn req val) o p = p := by cases o <;> simp [ctrlTxn, panelOnAfter, hreq]

/-- A control transfer with another request leaves the level's shadow. -/
theorem brightAfter_ctrl {req : Byte} (hreq : req ≠ Config.reqPanelBrightness) (val : Half) (o : TxOutcome)
    (p : Option Half) : brightAfter (ctrlTxn req val) o p = p := by cases o <;> simp [ctrlTxn, brightAfter, hreq]

theorem emit_panelOn (h : ∀ o, panelOnAfter x o s.panelOn = s.panelOn) : (emit x s).2.panelOn = s.panelOn := by
  rcases emit_cases x s with he | he | he <;> rw [he] <;> simp [h]

theorem emit_bright (h : ∀ o, brightAfter x o s.bright = s.bright) : (emit x s).2.bright = s.bright := by
  rcases emit_cases x s with he | he | he <;> rw [he] <;> simp [h]

/-- Only `PANEL_ONOFF` makes the switch's request. -/
theorem controlRequest_ne_onoff {req : Byte} {val : Half} (hi : i.controlRequest = some (req, val))
    (hne : ∀ v, i ≠ .panelOnoff v) : req ≠ Config.reqPanelOnoff := by
  cases i with
  | openDev | setW | setH | pix8 | pix1 | byte | flush => cases hi
  | panelOnoff v => exact absurd rfl (hne v)
  | resetWriteptr | panelBrightness => cases hi; decide

/-- Only `PANEL_BRIGHTNESS` makes the level's request. -/
theorem controlRequest_ne_brightness {req : Byte} {val : Half} (hi : i.controlRequest = some (req, val))
    (hne : ∀ n, i ≠ .panelBrightness n) : req ≠ Config.reqPanelBrightness := by
  cases i with
  | openDev | setW | setH | pix8 | pix1 | byte | flush => cases hi
  | panelBrightness n => exact absurd rfl (hne n)
  | resetWriteptr | panelOnoff => cases hi; decide

theorem emit_bulk_kept (ep : Byte) (bytes : List Byte) (s : State) : KeptByBulk s (emit (.bulk ep bytes) s).2 where
  toKeptByTransfer := emit_keptByTransfer _ s
  panelOn := emit_panelOn fun o => panelOnAfter_bulk ep bytes o _
  bright := emit_bright fun o => brightAfter_bulk ep bytes o _

theorem KeptByBulk.trans (h : KeptByBulk s t) (h' : KeptByBulk t u) : KeptByBulk s u where
  W := h'.W.trans h.W
  H := h'.H.trans h.H
  raster := by
    obtain ⟨hrx, hry, hacc⟩ := h.raster
    obtain ⟨hrx', hry', hacc'⟩ := h'.raster
    exact ⟨hrx'.trans hrx, hry'.trans hry, hacc'.trans hacc⟩
  host := h'.host.trans h.host
  panelH := h'.panelH.trans h.panelH
  panelOn := h'.panelOn.trans h.panelOn
  bright := h'.bright.trans h.bright

/-- A bulk transfer the device takes, whatever then leaves the accumulator. -/
theorem bulk_ok_kept (bytes rest : List Byte) (s : State) :
    KeptByBulk s { (s.record (.bulk Config.epBulkOut bytes) .ok).update (.bulk Config.epBulkOut bytes) .ok with
      fifo := rest } := ⟨⟨rfl, rfl, ⟨rfl, rfl, rfl⟩, rfl, rfl⟩, rfl, rfl⟩

theorem drain_kept (u : State) : KeptByBulk u (drain u) :=
  drainLoop_induction (KeptByBulk u)
    (fun s hs _ => hs.trans (bulk_ok_kept _ _ s))
    (fun s hs _ _ => hs.trans (emit_bulk_kept _ _ s)) _ u ⟨⟨rfl, rfl, ⟨rfl, rfl, rfl⟩, rfl, rfl⟩, rfl, rfl⟩

/-- `FLUSH` writes what a bulk transfer writes, and the accumulator. -/
theorem KeptByBulk.writesOwn_flush (h : KeptByBulk s t) : WritesOwn .flush s t where
  W _ := h.W
  H _ := h.H
  raster _ := h.raster
  fifo _ hne := absurd rfl hne
  panelOn _ := h.panelOn
  bright _ := h.bright
  device := nofun
  host := h.host
  panelH := h.panelH

/-- A pixel command writes the encoder's registers, the accumulator, and what a bulk transfer writes. -/
theorem pixel_writesOwn (hi : i.isPixel = true) (b : Bit) (s : State) :
    WritesOwn i s (drain (s.assemble b).advance) := by
  have hd := drain_kept (s.assemble b).advance
  have hW := hd.W.trans ((State.advance_W _).trans (State.assemble_W _ _))
  have hH := hd.H.trans ((State.advance_H _).trans (State.assemble_H _ _))
  have hpanel := hd.panelOn.trans ((State.advance_panelOn _).trans (State.assemble_panelOn _ _))
  have hbright := hd.bright.trans ((State.advance_bright _).trans (State.assemble_bright _ _))
  have hhost := hd.host.trans ((State.advance_host _).trans (State.assemble_host _ _))
  have hpanelH := hd.panelH.trans ((State.advance_panelH _).trans (State.assemble_panelH _ _))
  cases i with
  | pix8 | pix1 =>
    exact ⟨fun _ => hW, fun _ => hH, nofun, nofun, fun _ => hpanel, fun _ => hbright, nofun, hhost, hpanelH⟩
  | openDev | setW | setH | byte | flush | resetWriteptr | panelOnoff | panelBrightness => cases hi

theorem effect_writesOwn (i : Instr) (s : State) : WritesOwn i s (effect i s) := by
  apply effect_induction (WritesOwn i s) i s
  case hidle => constructor <;> simp
  case hviolate => intro r; constructor <;> simp
  case hopen =>
    rintro rfl _
    refine ⟨?_, ?_, ?_, ?_⟩ <;> constructor <;> simp
  case hsetW => rintro w rfl _ _; constructor <;> simp
  case hsetH => rintro h rfl _ _; constructor <;> simp
  case hpixel => exact fun b hi _ _ => pixel_writesOwn hi b s
  case hbyte =>
    rintro d rfl _
    have hd := drain_kept (s.append [d])
    exact ⟨fun _ => hd.W, fun _ => hd.H, fun _ => hd.raster, nofun, fun _ => hd.panelOn, fun _ => hd.bright, nofun,
      hd.host, hd.panelH⟩
  case hflush =>
    rintro rfl _ _
    refine ⟨(bulk_ok_kept _ _ s).writesOwn_flush, ?_, ?_⟩ <;>
      constructor <;> simp [Instr.needsDevice, State.remainder, panelOnAfter_bulk, brightAfter_bulk]
  case hcontrol =>
    intro req val hi _
    have hx := emit_keptByTransfer (ctrlTxn req val) s
    refine ⟨fun _ => hx.W, fun _ => hx.H, fun _ => hx.raster, fun _ _ => emit_fifo _ s, fun hne => ?panelOn,
      fun hne => ?bright, fun hd => ?device, hx.host, hx.panelH⟩
    case panelOn => exact emit_panelOn (panelOnAfter_ctrl (controlRequest_ne_onoff hi hne) val · _)
    case bright => exact emit_bright (brightAfter_ctrl (controlRequest_ne_brightness hi hne) val · _)
    case device => cases i <;> cases hd <;> cases hi

/-- Settles O47. -/
theorem writtenOnlyBy : Obligations.WrittenOnlyBy := by
  unfold Obligations.WrittenOnlyBy
  intro i s t hexec
  have hw : WritesOwn i s t := by
    obtain ⟨-, ⟨-, rfl⟩ | ⟨-, rfl⟩⟩ := exec_cases hexec
    · constructor <;> simp
    · exact effect_writesOwn i s
  exact ⟨hw.W, hw.H, hw.raster, hw.fifo, hw.panelOn, hw.bright, hw.device, hw.host, hw.panelH⟩

/-! ### No byte is lost (R28 item 7) -/

theorem stream_of_eq (hout : t.out = s.out) (hfifo : t.fifo = s.fifo) : t.stream = s.stream := by
  rw [State.stream, State.stream, hout, hfifo]

/-- An entry that delivers nothing, the accumulator staying as it is. -/
theorem stream_of_undelivered {e : Event} (he : eventBytes e = []) (hout : t.out = s.out ++ [e])
    (hfifo : t.fifo = s.fifo) : t.stream = s.stream := by
  rw [State.stream, State.stream, hout, delivered_concat, he, List.append_nil, hfifo]

/-- A transfer that does not complete delivers nothing. -/
theorem emit_stream_of_not_ok (ho : s.txOutcome x ≠ .ok) : (emit x s).2.stream = s.stream :=
  stream_of_undelivered (e := (x, _)) (if_neg ho) (emit_out x s) (emit_fifo x s)

/-- A transfer of the accumulator's head that the device takes. -/
theorem stream_of_sent {sent rest : List Byte} (hfifo : s.fifo = sent ++ rest)
    (hout : t.out = s.out ++ [(.bulk Config.epBulkOut sent, .ok)]) (hrest : t.fifo = rest) : t.stream = s.stream := by
  have hbytes : eventBytes (.bulk Config.epBulkOut sent, .ok) = sent := rfl
  rw [State.stream, State.stream, hout, delivered_concat, hbytes, hrest, hfifo, List.append_assoc]

theorem drain_stream (u : State) : (drain u).stream = u.stream :=
  drainLoop_induction (fun t => t.stream = u.stream)
    (fun s hs _ => (stream_of_sent (List.take_append_drop 64 s.fifo).symm rfl rfl).trans hs)
    (fun _ hs _ ho => (emit_stream_of_not_ok ho).trans hs) _ u rfl

theorem append_stream (bs : List Byte) (s : State) : (s.append bs).stream = s.stream ++ bs := by
  simp [State.stream]

/-- A control transfer carries no bytes. -/
theorem emit_ctrl_stream (req : Byte) (val : Half) (s : State) : (emit (ctrlTxn req val) s).2.stream = s.stream :=
  stream_of_undelivered (e := (ctrlTxn req val, _)) (ite_self []) (emit_out _ s) (emit_fifo _ s)

/-- The bytes a pixel appends: those of the Word it completes. -/
theorem rasterStep_stream (b : Bit) (s : State) : (rasterStep b s).stream = s.stream ++
    if s.sess ≠ .closed ∧ s.configured ∧ s.completesWord then wordBytes (s.assembled b) else [] := by
  by_cases hc : s.sess = .closed
  · rw [rasterStep_closed hc, stream_of_eq (State.violate_out _ _) (State.violate_fifo _ _),
      if_neg fun ⟨hopen, _⟩ => hopen hc, List.append_nil]
  · by_cases hconf : s.configured
    · rw [rasterStep_open hc hconf, drain_stream, State.stream, State.advance_out, State.assemble_out,
        State.advance_fifo, State.assemble_fifo, ← List.append_assoc]
      simp only [ne_eq, hc, not_false_eq_true, eq_true hconf, true_and]
      rfl
    · rw [rasterStep_unconfigured hc hconf, stream_of_eq (State.violate_out _ _) (State.violate_fifo _ _),
        if_neg fun ⟨_, hset, _⟩ => hconf hset, List.append_nil]

theorem byteEffect_stream (d : Byte) (s : State) :
    (byteEffect d s).stream = s.stream ++ if s.sess ≠ .closed then [d] else [] := by
  by_cases hc : s.sess = .closed
  · rw [byteEffect_closed hc, stream_of_eq (State.violate_out _ _) (State.violate_fifo _ _)]
    simp [hc]
  · rw [byteEffect_open hc, drain_stream, append_stream, if_pos hc]

/-- A command that is none of `PIX8`, `PIX1`, `BYTE` appends nothing. -/
theorem effect_stream_of_not_appending (hi : i.isAppending = false) (s : State) :
    (effect i s).stream = s.stream := by
  apply effect_induction (fun t => t.stream = s.stream) i s
  case hidle => rfl
  case hviolate => exact fun _ => stream_of_eq (State.violate_out _ _) (State.violate_fifo _ _)
  case hopen =>
    exact fun _ _ => ⟨rfl, rfl, stream_of_eq (State.raise_out _ _) (State.raise_fifo _ _),
      stream_of_eq (State.raise_out _ _) (State.raise_fifo _ _)⟩
  case hsetW => exact fun _ _ _ _ => rfl
  case hsetH => exact fun _ _ _ _ => rfl
  case hpixel => intro b hp; cases i <;> cases hp <;> cases hi
  case hbyte => rintro d rfl; cases hi
  case hflush =>
    exact fun _ _ _ => ⟨stream_of_sent (List.append_nil s.fifo).symm rfl rfl,
      stream_of_undelivered (e := (s.remainder, .fail)) rfl (State.raise_out _ _) (State.raise_fifo _ _),
      stream_of_undelivered (e := (s.remainder, .stall)) rfl rfl rfl⟩
  case hcontrol => exact fun req val _ _ => emit_ctrl_stream req val s

/-- Settles O49. -/
theorem streamKeepsEveryByte : Obligations.StreamKeepsEveryByte := by
  unfold Obligations.StreamKeepsEveryByte
  intro i s t hexec
  obtain ⟨hh, ⟨hf, rfl⟩ | ⟨hs, rfl⟩⟩ := exec_cases hexec
  · have hnone : appendedBytes i t = [] := by cases i <;> simp [appendedBytes, hf]
    rw [hnone, List.append_nil]
  · cases i with
    | pix8 p =>
      simp only [appendedBytes, eq_true hs, true_and]
      exact rasterStep_stream (threshold p) s
    | pix1 b =>
      simp only [appendedBytes, eq_true hs, true_and]
      exact rasterStep_stream b s
    | byte d =>
      simp only [appendedBytes, eq_true hs, true_and]
      exact byteEffect_stream d s
    | openDev | setW | setH | flush | resetWriteptr | panelOnoff | panelBrightness =>
      exact (effect_stream_of_not_appending rfl s).trans (List.append_nil _).symm

/-! ### Whole Words (R28 item 5) -/

/-- The accumulator and every payload hold whole Words. -/
def WholeWords (s : State) : Prop := 4 ∣ s.fifo.length ∧ ∀ e ∈ s.out, 4 ∣ e.1.payload.length

/-- The invariant looks at the accumulator and at `out`, and a transaction adds its payload. -/
theorem WholeWords.of_transaction (h : WholeWords s) (hx : 4 ∣ x.payload.length) (hout : t.out = s.out ++ [(x, o)])
    (hfifo : 4 ∣ t.fifo.length) : WholeWords t := by
  refine ⟨hfifo, ?_⟩
  rw [hout, List.forall_mem_append, List.forall_mem_singleton]
  exact ⟨h.2, hx⟩

theorem WholeWords.of_eq (h : WholeWords s) (hout : t.out = s.out) (hfifo : 4 ∣ t.fifo.length) : WholeWords t :=
  ⟨hfifo, hout ▸ h.2⟩

theorem emit_wholeWords (h : WholeWords s) (hx : 4 ∣ x.payload.length) : WholeWords (emit x s).2 :=
  h.of_transaction hx (emit_out x s) (emit_fifo x s ▸ h.1)

theorem drain_wholeWords (h : WholeWords u) : WholeWords (drain u) := by
  have hpacket (s : State) (hs : WholeWords s) (hl : 64 ≤ s.fifo.length) : 4 ∣ s.packet.payload.length := by
    have hlen : s.packet.payload.length = 64 := List.length_take_of_le hl
    omega
  refine drainLoop_induction WholeWords (fun s hs hl => ?ok) (fun s hs hl _ => emit_wholeWords hs (hpacket s hs hl)) _ u h
  case ok =>
    refine hs.of_transaction (hpacket s hs hl) rfl ?_
    have hfifo := hs.1
    simp only [List.length_drop]
    omega

theorem effect_wholeWords (hi : ∀ d, i ≠ .byte d) (h : WholeWords s) : WholeWords (effect i s) := by
  apply effect_induction WholeWords i s
  case hidle => exact h
  case hviolate => exact fun _ => h.of_eq (State.violate_out _ _) (by simpa using h.1)
  case hopen =>
    exact fun _ _ => ⟨h, h, h.of_eq (State.raise_out _ _) (by simpa using h.1),
      h.of_eq (State.raise_out _ _) (by simpa using h.1)⟩
  case hsetW => exact fun _ _ _ _ => h
  case hsetH => exact fun _ _ _ _ => h
  case hpixel =>
    intro b _ _ _
    refine drain_wholeWords (h.of_eq (by simp) ?_)
    have hfifo := h.1
    rw [State.advance_fifo, State.assemble_fifo, List.length_append]
    split <;> simp <;> omega
  case hbyte => exact fun d hd => absurd hd (hi d)
  case hflush =>
    have hx : 4 ∣ s.remainder.payload.length := h.1
    exact fun _ _ _ => ⟨h.of_transaction hx rfl (dvd_zero 4),
      h.of_transaction hx (State.raise_out _ _) (by simpa using h.1), h.of_transaction hx rfl h.1⟩
  case hcontrol => exact fun _ _ _ _ => emit_wholeWords h (dvd_zero 4)

/-- Settles O50. -/
theorem wholeWordsWithoutByte : Obligations.WholeWordsWithoutByte := by
  unfold Obligations.WholeWordsWithoutByte
  intro i s t hi hexec hfifo hout
  obtain ⟨-, ⟨-, rfl⟩ | ⟨-, rfl⟩⟩ := exec_cases hexec
  · exact ⟨hfifo, hout⟩
  · exact effect_wholeWords hi ⟨hfifo, hout⟩

/-! ### Completion (R186, R188) -/

/-- `t` waits in no `OPEN`, and if it waits in a transaction, that is the last of `out` and was made since `s`. -/
structure HungSince (s t : State) : Prop where
  grows : s.out.length ≤ t.out.length
  transaction : ∀ x, t.hung = some (.transaction x) → t.out.getLast? = some (x, .stall) ∧ s.out.length < t.out.length
  not_open : t.hung ≠ some .openDevice

theorem hungSince_of_none (hl : s.out.length ≤ t.out.length) (hh : t.hung = none) : HungSince s t :=
  ⟨hl, fun _ hx => by simp [hh] at hx, by simp [hh]⟩

/-- What has been recorded before `u` only makes `out` longer. -/
theorem HungSince.trans_le (hl : s.out.length ≤ u.out.length) (h : HungSince u t) : HungSince s t :=
  ⟨hl.trans h.grows, fun x hx => (h.transaction x hx).imp_right hl.trans_lt, h.not_open⟩

theorem stalled_hungSince (x : Txn) (s : State) :
    HungSince s { s.record x .stall with hung := some (.transaction x) } where
  grows := by simp
  transaction y hy := by cases hy; simp
  not_open := nofun

theorem emit_hungSince (x : Txn) (hh : s.hung = none) : HungSince s (emit x s).2 := by
  rcases emit_cases x s with he | he | he <;> rw [he]
  · exact hungSince_of_none (by simp) hh
  · exact hungSince_of_none (by simp) (by simpa using hh)
  · exact stalled_hungSince x s

theorem drainLoop_hungSince (n : Nat) (hh : s.hung = none) : HungSince s (drainLoop n s) := by
  induction n generalizing s with
  | zero => exact hungSince_of_none le_rfl hh
  | succ n ih =>
    by_cases hl : s.fifo.length < 64
    · rw [drainLoop_short _ hl]; exact hungSince_of_none le_rfl hh
    · by_cases ho : s.txOutcome s.packet = .ok
      · rw [drainLoop_ok (Nat.le_of_not_lt hl) ho]
        exact .trans_le (by simp) (ih hh)
      · rw [drainLoop_stop (Nat.le_of_not_lt hl) ho]
        exact emit_hungSince _ hh

/-- Every command but `OPEN`. -/
theorem effect_hungSince (hi : i ≠ .openDev) (hh : s.hung = none) : HungSince s (effect i s) := by
  apply effect_induction (HungSince s) i s
  case hidle => exact hungSince_of_none le_rfl hh
  case hviolate => exact fun _ => hungSince_of_none (by simp) (by simpa using hh)
  case hopen => exact fun hopen => absurd hopen hi
  case hsetW => exact fun _ _ _ _ => hungSince_of_none le_rfl hh
  case hsetH => exact fun _ _ _ _ => hungSince_of_none le_rfl hh
  case hpixel => exact fun b _ _ _ => .trans_le (by simp) (drainLoop_hungSince _ (by simpa using hh))
  case hbyte => exact fun d _ _ => .trans_le (u := s.append [d]) le_rfl (drainLoop_hungSince _ hh)
  case hflush =>
    exact fun _ _ _ => ⟨hungSince_of_none (by simp) hh, hungSince_of_none (by simp) (by simpa using hh),
      stalled_hungSince _ s⟩
  case hcontrol => exact fun _ _ _ _ => emit_hungSince _ hh

/-- `OPEN` makes no transaction, and waits if it is answered `stall`. -/
theorem openEffect_hung (hs : s.running) :
    (openEffect s).hung = none ∨ (openEffect s).hung = some .openDevice ∧ s.openOutcome = .stall := by
  by_cases hc : s.sess = .closed
  · cases ho : s.openOutcome with
    | ok => exact .inl (by simp [openEffect_ok hc ho, hs.1])
    | notFound => exact .inl (by simp [openEffect_notFound hs.2 hc ho, hs.1])
    | fail => exact .inl (by simp [openEffect_fail hs.2 hc ho, hs.1])
    | stall => exact .inr ⟨by simp [openEffect_stall hc ho], rfl⟩
  · exact .inl (by simp [openEffect_open hc, hs.1])

/-- Settles O13: a halted block completes at once; a running one has the command's effect, which waits in `OPEN`, or in a
transaction just made, or not at all. -/
theorem everyCommandCompletes : Obligations.EveryCommandCompletes := by
  unfold Obligations.EveryCommandCompletes
  intro i s hh
  by_cases hf : s.fault = none
  · refine ⟨effect i s, exec_running i ⟨hh, hf⟩, ?_⟩
    by_cases hi : i = .openDev
    · subst hi
      obtain hnone | ⟨hopen, ho⟩ := openEffect_hung ⟨hh, hf⟩
      · exact ⟨fun x hx => by simp [effect, hnone] at hx, fun hx => by simp [effect, hnone] at hx⟩
      · exact ⟨fun x hx => by simp [effect, hopen] at hx, fun _ => ⟨rfl, ho⟩⟩
    · have hsince := effect_hungSince hi hh
      exact ⟨hsince.transaction, fun hx => absurd hx hsince.not_open⟩
  · exact ⟨s, exec_halted i hh hf, fun x hx => by simp [hh] at hx, fun hx => by simp [hh] at hx⟩

end Sys2Proof.Machine
end

section
/-! Where things lie: the pixels in the wire buffer (20_memory.md section 2, R43), the bytes of a raw movie frame (section
1, R42), and packets on the device (sections 4 and 5, R45). -/

namespace Sys2Proof.Machine

/-! ### A concatenation of blocks of one length -/

section Blocks

variable {α β : Type} {l : List α} {f : α → List β} {n : Nat}

/-- Cutting k blocks off the concatenation cuts k entries off the list. -/
theorem drop_flatMap_of_length (hf : ∀ a ∈ l, (f a).length = n) (k : Nat) :
    (l.flatMap f).drop (k * n) = (l.drop k).flatMap f := by
  induction l generalizing k with
  | nil => simp
  | cons a l ih =>
    obtain ⟨ha, hl⟩ := List.forall_mem_cons.mp hf
    cases k with
    | zero => simp
    | succ k => rw [List.flatMap_cons, Nat.succ_mul, Nat.add_comm, ← ha, List.drop_length_add_append, ha, ih hl,
        List.drop_succ_cons]

/-- Place r of block k. -/
theorem getElem?_flatMap_of_length (hf : ∀ a ∈ l, (f a).length = n) (k : Nat) {r : Nat} (hr : r < n) :
    (l.flatMap f)[k * n + r]? = l[k]?.bind fun a => (f a)[r]? := by
  rw [← List.getElem?_drop, drop_flatMap_of_length hf, ← Nat.add_zero k, ← List.getElem?_drop, Nat.add_zero]
  cases hl : l.drop k with
  | nil => rfl
  | cons a rest =>
    have ha : (f a).length = n := hf a (List.mem_of_mem_drop (hl ▸ List.mem_cons_self))
    rw [List.flatMap_cons, List.getElem?_append_left (ha.symm ▸ hr)]
    rfl

end Blocks

/-! ### The wire buffer, bit by bit (R43) -/

/-- The bit of the pixel at (x, y), and 0 outside the image. -/
def Image.bitAt (img : Image) (x y : Nat) : Bool := (img.pix x y).any fun px => px.bit = 1

variable {img : Image} {w h x y j i t o : Nat}

theorem Image.isSize.length_eq (hs : img.isSize w h) : img.length = h := by
  obtain ⟨-, -, hlen, -⟩ := hs
  exact hlen

theorem Image.isSize.row_length (hs : img.isSize w h) : ∀ row ∈ img, row.length = w := by
  obtain ⟨-, -, -, hrows⟩ := hs
  exact hrows

theorem Image.bitAt_of_pix {px : Pixel} (hpx : img.pix x y = some px) : img.bitAt x y = decide (px.bit = 1) := by
  rw [Image.bitAt, hpx]; rfl

/-- Byte i of an assembled Word, bit by bit: reversal puts lane 31 first. -/
theorem getLsbD_wordBytes (a : Word) (hi : i < 4) (ht : t < 8) :
    ((wordBytes a).getD i 0).getLsbD t = a.getLsbD (31 - (8 * i + t)) := by
  rw [wordBytes, getD_serLE32 _ hi, BitVec.getLsbD_extractLsb', getLsbD_bitRev32 a (by omega)]
  simp [ht]

/-- Byte i of the Word of row y, row block j. -/
theorem getElem?_encFrame (hw : ∀ row ∈ img, row.length = w) (y : Nat) (hj : j < nb w) (hi : i < 4) :
    (encFrame img)[4 * (y * nb w + j) + i]? = img[y]?.bind fun row => (wordBytes (asm (row.map Pixel.bit) j))[i]? := by
  have hrows : ∀ row ∈ img, (encRow (row.map Pixel.bit)).length = 4 * nb w := by
    intro row hrow
    rw [encRow_length, List.length_map, hw row hrow]
  have hplace : 4 * (y * nb w + j) + i = y * (4 * nb w) + (j * 4 + i) := by ring
  rw [hplace, encFrame, getElem?_flatMap_of_length hrows y (by omega)]
  refine Option.bind_congr fun row hrow => ?_
  have hlen : (row.map Pixel.bit).length = w := by
    rw [List.length_map, hw row (List.mem_of_getElem? hrow)]
  rw [encRow, hlen, getElem?_flatMap_of_length (fun _ _ => wordBytes_length _) j hi, List.getElem?_range hj]
  rfl

/-- Bit t of byte i of the Word of row y, row block j, is the pixel of lane 31 - (8 i + t). -/
theorem getLsbD_encFrame (hw : ∀ row ∈ img, row.length = w) (y : Nat) (hj : j < nb w) (hi : i < 4) (ht : t < 8) :
    ((encFrame img).getD (4 * (y * nb w + j) + i) 0).getLsbD t = img.bitAt (32 * j + (31 - (8 * i + t))) y := by
  rw [List.getD_eq_getElem?_getD, getElem?_encFrame hw y hj hi, Image.bitAt, Image.pix]
  cases img[y]? with
  | none => simp
  | some row =>
    rw [Option.bind_some, ← List.getD_eq_getElem?_getD, getLsbD_wordBytes _ hi ht, getLsbD_asm _ _ (by omega),
      List.getD_eq_getElem?_getD, List.getElem?_map, Option.bind_some]
    cases row[32 * j + (31 - (8 * i + t))]? with
    | none => rfl
    | some px => rfl

/-- The converse of R43: which pixel each bit of the byte at offset o is. -/
theorem getLsbD_encFrame_offset (hw : ∀ row ∈ img, row.length = w) (hpos : 0 < w) (o : Nat) (ht : t < 8) :
    ((encFrame img).getD o 0).getLsbD t =
      img.bitAt (32 * (o / 4 % nb w) + 31 - 8 * (o % 4) - t) (o / 4 / nb w) := by
  have hnb : 0 < nb w := lt_nb_iff.mpr hpos
  have hoffset : o = 4 * (o / 4 / nb w * nb w + o / 4 % nb w) + o % 4 := by
    rw [Nat.div_add_mod', Nat.div_add_mod]
  have hcolumn : 32 * (o / 4 % nb w) + 31 - 8 * (o % 4) - t = 32 * (o / 4 % nb w) + (31 - (8 * (o % 4) + t)) := by
    omega
  rw [hcolumn, ← getLsbD_encFrame hw (o / 4 / nb w) (Nat.mod_lt _ hnb) (Nat.mod_lt o (by decide)) ht, ← hoffset]

/-- Settles O27: the length, the place of a pixel, and the pixel of a place. -/
theorem wireBufferLayout : Obligations.WireBufferLayout := by
  unfold Obligations.WireBufferLayout
  rintro img w h ⟨hpos, -, rfl, hw⟩
  refine ⟨encFrame_length hw, fun x y px hpx => ?place, fun o t _ ht => ?converse⟩
  case place =>
    obtain ⟨row, hrow, hcol⟩ := Option.bind_eq_some_iff.mp hpx
    obtain ⟨hx, -⟩ := List.getElem?_eq_some_iff.mp hcol
    have hxw : x < w := hw row (List.mem_of_getElem? hrow) ▸ hx
    have hlane : 32 * (x / 32) + (31 - (8 * ((31 - x % 32) / 8) + (31 - x % 32) % 8)) = x := by omega
    rw [getLsbD_encFrame hw y (lt_nb_iff.mpr (by omega)) (by omega) (Nat.mod_lt _ (by decide)), hlane]
    exact Image.bitAt_of_pix hpx
  case converse =>
    rw [getLsbD_encFrame_offset hw hpos o ht, Image.bitAt]
    cases img.pix (32 * (o / 4 % nb w) + 31 - 8 * (o % 4) - t) (o / 4 / nb w) <;> rfl

/-! ### Uniform images (R114) -/

/-- A pixel of the image is a pixel of one of its rows. -/
theorem Image.pix_mem {px : Pixel} (hpx : img.pix x y = some px) : ∃ row ∈ img, px ∈ row := by
  obtain ⟨row, hrow, hcol⟩ := Option.bind_eq_some_iff.mp hpx
  exact ⟨row, List.mem_of_getElem? hrow, List.mem_of_getElem? hcol⟩

/-- Inside the image there is a pixel. -/
theorem Image.exists_pix (hs : img.isSize w h) (hx : x < w) (hy : y < h) : ∃ px, img.pix x y = some px := by
  obtain ⟨-, -, hlen, hw⟩ := hs
  have hrow : img[y]? = some img[y] := List.getElem?_eq_getElem (hlen ▸ hy)
  have hcol : x < (img[y]'(hlen ▸ hy)).length := (hw _ (List.getElem_mem _)).symm ▸ hx
  exact ⟨_, by rw [Image.pix, hrow, Option.bind_some, List.getElem?_eq_getElem hcol]⟩

/-- A buffer whose bytes all have the bits of `v` is copies of `v`. -/
theorem eq_replicate_of_bits {buf : List Byte} {v : Byte}
    (hbits : ∀ o < buf.length, ∀ t < 8, (buf.getD o 0).getLsbD t = v.getLsbD t) : buf = List.replicate buf.length v := by
  refine List.ext_getElem (List.length_replicate).symm fun o ho _ => ?_
  rw [List.getElem_replicate]
  refine BitVec.eq_of_getLsbD_eq fun t ht => ?_
  rw [← List.getD_eq_getElem buf 0 ho]
  exact hbits o ho t ht

/-- Settles O28: every bit of the buffer is a pixel or, if the width leaves any, padding. -/
theorem uniformImages : Obligations.UniformImages := by
  unfold Obligations.UniformImages
  intro img w h hs
  have hw : ∀ row ∈ img, row.length = w := hs.row_length
  have hlen : (encFrame img).length = h * nb w * 4 := by rw [encFrame_length hw, hs.length_eq]
  have hpos : 0 < nb w := lt_nb_iff.mpr hs.1
  rw [← hlen]
  refine ⟨fun hoff => ?allOff, fun hon hdvd => ?allOn⟩ <;> refine eq_replicate_of_bits fun o ho t ht => ?_ <;>
    rw [getLsbD_encFrame_offset hw hs.1 o ht]
  case allOff =>
    cases hpx : img.pix (32 * (o / 4 % nb w) + 31 - 8 * (o % 4) - t) (o / 4 / nb w) with
    | none => simp [Image.bitAt, hpx]
    | some px =>
      obtain ⟨row, hrow, hmem⟩ := Image.pix_mem hpx
      simp [Image.bitAt_of_pix hpx, hoff row hrow px hmem]
  case allOn =>
    have hcol : 32 * (o / 4 % nb w) + 31 - 8 * (o % 4) - t < w := by
      have hblock : o / 4 % nb w < nb w := Nat.mod_lt _ hpos
      have hfull : 32 * nb w = w := by unfold nb; omega
      omega
    have hrow : o / 4 / nb w < h := by
      rw [Nat.div_div_eq_div_mul, Nat.div_lt_iff_lt_mul (by omega)]
      calc o < h * nb w * 4 := hlen ▸ ho
        _ = h * (4 * nb w) := by ring
    obtain ⟨px, hpx⟩ := Image.exists_pix hs hcol hrow
    obtain ⟨row, hrow, hmem⟩ := Image.pix_mem hpx
    have hbyte : (0xFF : Byte).getLsbD t = true := (BitVec.getLsbD_allOnes (v := 8)).trans (decide_eq_true ht)
    rw [Image.bitAt_of_pix hpx, hon row hrow px hmem, hbyte]
    rfl

/-! ### Raw movie frames (R42) -/

/-- The bytes y w to y w + w - 1. -/
def rowBytes (w : Nat) (bytes : List Byte) (y : Nat) : List Byte := (bytes.drop (y * w)).take w

/-- The image whose row y holds those bytes as intensities. -/
def rowMajor (w h : Nat) (bytes : List Byte) : Image :=
  (List.range h).map fun y => (rowBytes w bytes y).map Pixel.intensity

theorem rowMajor_succ (w h : Nat) (bytes : List Byte) :
    rowMajor w (h + 1) bytes = (bytes.take w).map Pixel.intensity :: rowMajor w h (bytes.drop w) := by
  have hrow (y : Nat) : rowBytes w bytes (y + 1) = rowBytes w (bytes.drop w) y := by
    rw [rowBytes, rowBytes, List.drop_drop, Nat.succ_mul, Nat.add_comm w]
  have hfirst : rowBytes w bytes 0 = bytes.take w := by rw [rowBytes, Nat.zero_mul, List.drop_zero]
  rw [rowMajor, List.range_succ_eq_map, List.map_cons, List.map_map, hfirst, rowMajor]
  simp only [Function.comp_def, Nat.succ_eq_add_one, hrow]

theorem rawFrame_eq_none {bytes : List Byte} (hshort : bytes.length < w * h) : rawFrame w h bytes = none := by
  induction h generalizing bytes with
  | zero => simp at hshort
  | succ h ih =>
    rw [rawFrame]
    split
    · rfl
    · rw [ih (by rw [List.length_drop]; rw [Nat.mul_succ] at hshort; omega)]
      rfl

theorem rawFrame_eq_some {bytes : List Byte} (hlen : w * h ≤ bytes.length) :
    rawFrame w h bytes = some (rowMajor w h bytes) := by
  induction h generalizing bytes with
  | zero => rfl
  | succ h ih =>
    rw [Nat.mul_succ] at hlen
    rw [rawFrame, if_neg (by omega), ih (by rw [List.length_drop]; omega), rowMajor_succ]
    rfl

/-- Each row lies inside the frame. -/
theorem rowBytes_length {bytes : List Byte} (hlen : w * h ≤ bytes.length) (hy : y < h) :
    (rowBytes w bytes y).length = w := by
  have hend : (y + 1) * w ≤ h * w := Nat.mul_le_mul_right w hy
  rw [rowBytes, List.length_take, List.length_drop, Nat.min_eq_left]
  rw [Nat.succ_mul] at hend
  rw [Nat.mul_comm] at hlen
  omega

theorem rowMajor_isSize {bytes : List Byte} (hw : 0 < w) (hh : 0 < h) (hlen : w * h ≤ bytes.length) :
    (rowMajor w h bytes).isSize w h := by
  refine ⟨hw, hh, by simp [rowMajor], ?_⟩
  simp only [rowMajor, List.forall_mem_map, List.mem_range, List.length_map]
  exact fun y hy => rowBytes_length hlen hy

theorem rowMajor_pix (bytes : List Byte) (hx : x < w) (hy : y < h) :
    (rowMajor w h bytes).pix x y = bytes[y * w + x]?.map Pixel.intensity := by
  simp [Image.pix, rowMajor, rowBytes, List.getElem?_range hy, hx]

/-- The rows one after another are the frame's bytes. -/
theorem flatMap_rowBytes (w h : Nat) (bytes : List Byte) :
    (List.range h).flatMap (rowBytes w bytes) = bytes.take (w * h) := by
  induction h with
  | zero => simp
  | succ h ih => rw [List.range_succ, List.flatMap_append, ih, List.flatMap_singleton, rowBytes, Nat.mul_comm h w,
      Nat.mul_succ, List.take_add]

theorem frameCommands_rowMajor (w h : Nat) (bytes : List Byte) :
    frameCommands (rowMajor w h bytes) = (bytes.take (w * h)).map Instr.pix8 := by
  rw [← flatMap_rowBytes, List.map_flatMap, frameCommands, rowMajor, List.flatMap_map]
  simp only [List.map_map]
  rfl

/-- Settles O57. -/
theorem rawFrameIsRowMajor : Obligations.RawFrameIsRowMajor := by
  unfold Obligations.RawFrameIsRowMajor
  exact fun w h bytes hw hh => ⟨rawFrame_eq_none, fun hlen => ⟨rowMajor w h bytes, rawFrame_eq_some hlen,
    rowMajor_isSize hw hh hlen, fun _ _ hx hy => rowMajor_pix bytes hx hy, frameCommands_rowMajor w h bytes⟩⟩

/-! ### Packets on the device (R45) -/

theorem sentPackets_append (ps qs : List (List Byte)) : sentPackets (ps ++ qs) = sentPackets ps ++ sentPackets qs :=
  List.map_append

/-- A packet's bytes land from the pointer on, and the pointer moves past them. -/
theorem deviceWrites_sentPackets (p : Nat) (packets : List (List Byte)) :
    deviceWrites (some p) (sentPackets packets) = packets.flatten.mapIdx fun i b => (some (p + i), b) := by
  induction packets generalizing p with
  | nil => rfl
  | cons b packets ih =>
    have hmove : wptrAfter (.bulk Config.epBulkOut b) .ok (some p) = some (p + b.length) := rfl
    have hbytes : eventBytes (.bulk Config.epBulkOut b, .ok) = b := rfl
    rw [sentPackets, List.map_cons, deviceWrites, hmove, hbytes]
    rw [sentPackets] at ih
    rw [ih, List.flatten_cons, List.mapIdx_append]
    congr 2
    funext i b'
    rw [Nat.add_assoc, Nat.add_comm i]

/-- Settles O56. -/
theorem packetsLandInOrder : Obligations.PacketsLandInOrder := by
  unfold Obligations.PacketsLandInOrder
  exact deviceWrites_sentPackets

end Sys2Proof.Machine
end

section
/-! Packets that the environment takes (41_framer.md sections 2 and 4): the chunking loop for any number of turns, bytes fed
to the framer piece by piece, and `BYTES buf` then `FLUSH`. -/

namespace Sys2Proof.Machine

variable {s t : State} {a b buf bs : List Byte} {n m k : Nat} {x : Txn}

/-! ### Packets of a concatenation (R132) -/

/-- A front part of whole packets is cut into its own packets. -/
theorem chunk_append (a b : List Byte) (ha : 64 ∣ a.length) : chunk (a ++ b) = chunk a ++ chunk b := by
  by_cases hne : a = []
  · rw [hne, List.nil_append, chunk_nil, List.nil_append]
  · have hpos : 0 < a.length := List.length_pos_iff.mpr hne
    have hfull : 64 ≤ a.length := Nat.le_of_dvd hpos ha
    have hrest : 64 ∣ (a.drop 64).length := by rw [List.length_drop]; omega
    rw [chunk_of_ne_nil _ (List.append_ne_nil_of_left_ne_nil hne b), chunk_of_ne_nil a hne,
      List.take_append_of_le_length hfull, List.drop_append_of_le_length hfull, chunk_append (a.drop 64) b hrest, List.cons_append]
termination_by a.length
decreasing_by
  rw [List.length_drop]
  omega

/-- At most 64 bytes, and at least one, are one packet. -/
theorem chunk_single (hne : b ≠ []) (hl : b.length ≤ 64) : chunk b = [b] := by
  rw [chunk_of_ne_nil b hne, List.take_of_length_le hl, List.drop_of_length_le hl, chunk_nil]

/-- The packets of the first m + n full packets. -/
theorem chunk_take_add (hm : 64 * m ≤ buf.length) :
    chunk (buf.take (64 * (m + n))) = chunk (buf.take (64 * m)) ++ chunk ((buf.drop (64 * m)).take (64 * n)) := by
  rw [Nat.mul_add, List.take_add, chunk_append _ _ (by rw [List.length_take_of_le hm]; exact dvd_mul_right 64 m)]

/-! ### The state after n full packets -/

/-- The first n full packets have gone out, each answered `ok`. -/
def State.sent (n : Nat) (s : State) : State :=
  { s with
    fifo := s.fifo.drop (64 * n)
    out := s.out ++ sentPackets (chunk (s.fifo.take (64 * n)))
    wptr := s.wptr.map (· + 64 * n)
    sess := if n = 0 then s.sess else .streaming
    txAnswers := s.txAnswers.drop n }

theorem sent_zero (s : State) : s.sent 0 = s := by
  cases s
  simp [State.sent, sentPackets]

/-- Sending goes packet by packet. -/
theorem sent_sent (hm : 64 * m ≤ s.fifo.length) : (s.sent m).sent n = s.sent (m + n) := by
  have hout : s.out ++ sentPackets (chunk (s.fifo.take (64 * m))) ++
      sentPackets (chunk ((s.fifo.drop (64 * m)).take (64 * n))) =
        s.out ++ sentPackets (chunk (s.fifo.take (64 * (m + n)))) := by
    rw [chunk_take_add hm, sentPackets_append, List.append_assoc]
  have hfifo : (s.fifo.drop (64 * m)).drop (64 * n) = s.fifo.drop (64 * (m + n)) := by
    rw [List.drop_drop, Nat.mul_add]
  have hwptr : (s.wptr.map (· + 64 * m)).map (· + 64 * n) = s.wptr.map (· + 64 * (m + n)) := by
    cases s.wptr with
    | none => rfl
    | some p => exact congrArg some (by ring)
  have hsess : (if n = 0 then (if m = 0 then s.sess else .streaming) else .streaming) =
      if m + n = 0 then s.sess else Sess.streaming := by
    by_cases hn : n = 0 <;> by_cases hm0 : m = 0 <;> simp [hn, hm0]
  have hanswers : (s.txAnswers.drop m).drop n = s.txAnswers.drop (m + n) := List.drop_drop
  simp only [State.sent, hout, hfifo, hwptr, hsess, hanswers]

/-- One turn of the loop. -/
theorem turn_eq_sent (hl : 64 ≤ s.fifo.length) :
    { (s.record s.packet .ok).update s.packet .ok with fifo := s.fifo.drop 64 } = s.sent 1 := by
  have hlen : (s.fifo.take 64).length = 64 := List.length_take_of_le hl
  have hne : s.fifo.take 64 ≠ [] := List.length_pos_iff.mp (by omega)
  have hchunk : chunk (s.fifo.take (64 * 1)) = [s.fifo.take 64] := chunk_single hne hlen.le
  have hpacket : s.packet = .bulk Config.epBulkOut (s.fifo.take 64) := rfl
  have hwptr : wptrAfter s.packet .ok s.wptr = s.wptr.map (· + 64 * 1) := by
    rw [hpacket, wptrAfter, hlen]
  rw [State.sent, hchunk, ← hwptr, List.drop_one]
  rfl

/-! ### The loop (R131) -/

/-- The environment takes the next n transactions. -/
def State.AnswersOk (n : Nat) (s : State) : Prop := ∀ j < n, s.txAnswers[j]? = some .ok

theorem answersOk_of_eq {rest : List TxOutcome} (h : s.txAnswers = List.replicate n .ok ++ rest) : s.AnswersOk n := by
  intro j hj
  rw [h, List.getElem?_append_left (by simpa using hj), List.getElem?_replicate, if_pos hj]

theorem drop_answers_of_eq {rest : List TxOutcome} (h : s.txAnswers = List.replicate n .ok ++ rest) :
    s.txAnswers.drop n = rest := by
  rw [h, List.drop_left' List.length_replicate]

theorem State.AnswersOk.mono (h : s.AnswersOk n) (hle : m ≤ n) : s.AnswersOk m := fun j hj => h j (by omega)

/-- The answers left when m have been used up. -/
theorem answersOk_drop (h : s.AnswersOk (m + n)) (ht : t.txAnswers = s.txAnswers.drop m) : t.AnswersOk n := by
  intro j hj
  rw [ht, List.getElem?_drop]
  exact h (m + j) (by omega)

theorem txOutcome_of_answersOk (h : s.AnswersOk n) (hn : 0 < n) : s.txOutcome x = .ok := by
  have hfirst : s.txAnswers[0]? = some .ok := h 0 hn
  cases hans : s.txAnswers with
  | nil => simp [hans] at hfirst
  | cons o rest =>
    obtain rfl : o = .ok := by simpa [hans] using hfirst
    exact txOutcome_of_answer hans

/-- Turns of the loop that the environment takes, before any others. -/
theorem drainLoop_sent (k m : Nat) (hl : 64 * k ≤ s.fifo.length) (hok : s.AnswersOk k) :
    drainLoop (k + m) s = drainLoop m (s.sent k) := by
  induction k generalizing s with
  | zero => rw [Nat.zero_add, sent_zero]
  | succ k ih =>
    have hfull : 64 ≤ s.fifo.length := by omega
    have hrest : 64 * k ≤ (s.sent 1).fifo.length := by simp only [State.sent, List.length_drop]; omega
    have hok' : (s.sent 1).AnswersOk k := answersOk_drop (m := 1) (Nat.add_comm k 1 ▸ hok) rfl
    rw [Nat.add_right_comm, drainLoop_ok hfull (txOutcome_of_answersOk hok k.succ_pos), turn_eq_sent hfull,
      ih hrest hok', sent_sent hfull, Nat.add_comm 1 k]

theorem drain_eq_sent (hok : s.AnswersOk (s.fifo.length / 64)) : drain s = s.sent (s.fifo.length / 64) := by
  have hl : 64 * (s.fifo.length / 64) ≤ s.fifo.length := Nat.mul_div_le _ _
  exact drainLoop_sent _ 0 hl hok

/-- After k packets, a turn that the environment does not take is the last. -/
theorem drain_stops_after (hk : k < s.fifo.length / 64) (hok : s.AnswersOk k)
    (ho : (s.sent k).txOutcome (s.sent k).packet ≠ .ok) : drain s = (emit (s.sent k).packet (s.sent k)).2 := by
  obtain ⟨m, hm⟩ : ∃ m, s.fifo.length / 64 = k + (m + 1) := ⟨s.fifo.length / 64 - k - 1, by omega⟩
  have hfull : 64 ≤ (s.sent k).fifo.length := by simp only [State.sent, List.length_drop]; omega
  rw [drain, Config.pktMax, hm, drainLoop_sent k _ (by omega) hok, drainLoop_stop hfull ho]

/-- Settles O30: all packets taken; or k taken and the next failed, or stalled. -/
theorem drainSendsFullPackets : Obligations.DrainSendsFullPackets := by
  unfold Obligations.DrainSendsFullPackets
  rintro s n hfault rfl
  refine ⟨fun rest hans => ?ok, fun k rest x hk hans hx => ?fail, fun k rest x hk hans hx => ?stall⟩
  case ok =>
    rw [drain_eq_sent (answersOk_of_eq hans), State.sent, drop_answers_of_eq hans]
  case fail =>
    subst hx
    have hrest : (s.sent k).txAnswers = .fail :: rest := drop_answers_of_eq hans
    have ho : (s.sent k).txOutcome (s.sent k).packet = .fail := txOutcome_of_answer hrest
    have hemit : emit (s.sent k).packet (s.sent k) = _ := emit_bulk_fail hfault ho
    rw [drain_stops_after hk (answersOk_of_eq hans) (ho.trans_ne nofun), hemit, hrest]
    rfl
  case stall =>
    subst hx
    have hrest : (s.sent k).txAnswers = .stall :: rest := drop_answers_of_eq hans
    have ho : (s.sent k).txOutcome (s.sent k).packet = .stall := txOutcome_of_answer hrest
    rw [drain_stops_after hk (answersOk_of_eq hans) (ho.trans_ne nofun), emit_stall ho, State.record, hrest]
    rfl

/-! ### Bytes fed to the framer -/

/-- Bytes have entered the accumulator, and what made full packets has gone out. -/
def State.fed (bs : List Byte) (s : State) : State := (s.append bs).sent ((s.fifo.length + bs.length) / 64)

/-- The block takes k more bytes: it runs, has a session, holds less than a packet, and each packet these bytes complete
will be answered `ok`. -/
structure State.Takes (k : Nat) (s : State) : Prop where
  running : s.running
  session : s.sess ≠ .closed
  short : s.fifo.length ≤ 63
  answers : s.AnswersOk ((s.fifo.length + k) / 64)

theorem State.Takes.mono (h : s.Takes n) (hle : m ≤ n) : s.Takes m :=
  ⟨h.running, h.session, h.short, h.answers.mono (Nat.div_le_div_right (by omega))⟩

/-- The bytes that did not fill a packet wait. -/
theorem fed_fifo_length (bs : List Byte) (s : State) : (s.fed bs).fifo.length = (s.fifo.length + bs.length) % 64 := by
  simp only [State.fed, State.sent, State.append_fifo, List.length_drop, List.length_append]
  omega

theorem fed_nil (h : s.fifo.length ≤ 63) : s.fed [] = s := by
  have hzero : (s.fifo.length + ([] : List Byte).length) / 64 = 0 := by rw [List.length_nil]; omega
  rw [State.fed, hzero, sent_zero, State.append, List.append_nil]

/-- Bytes may be fed in two parts. -/
theorem fed_fed (a b : List Byte) (s : State) : (s.fed a).fed b = s.fed (a ++ b) := by
  have hm : 64 * ((s.fifo.length + a.length) / 64) ≤ (s.append (a ++ b)).fifo.length := by
    simp only [State.append_fifo, List.length_append]; omega
  have hm' : 64 * ((s.fifo.length + a.length) / 64) ≤ (s.fifo ++ a).length := by
    rw [List.length_append]; omega
  have hn : (s.fifo.length + a.length) / 64 + ((s.fed a).fifo.length + b.length) / 64 =
      (s.fifo.length + (a ++ b).length) / 64 := by
    rw [fed_fifo_length, List.length_append]; omega
  have happend : (s.fed a).append b = (s.append (a ++ b)).sent ((s.fifo.length + a.length) / 64) := by
    simp only [State.fed, State.sent, State.append, ← List.append_assoc, List.drop_append_of_le_length hm',
      List.take_append_of_le_length hm']
  rw [State.fed, happend, sent_sent hm, hn, State.fed]

/-- Having taken some of the bytes the block takes the rest. -/
theorem State.Takes.fed (h : s.Takes (bs.length + k)) : (s.fed bs).Takes k where
  running := h.running
  session := by
    simp only [State.fed, State.sent]
    split
    · exact h.session
    · nofun
  short := by rw [fed_fifo_length]; omega
  answers := by
    refine answersOk_drop (s := s) (m := (s.fifo.length + bs.length) / 64) (h.answers.mono ?_) rfl
    rw [fed_fifo_length]
    omega

theorem drain_append (h : s.Takes bs.length) : drain (s.append bs) = s.fed bs := by
  have hlen : (s.append bs).fifo.length = s.fifo.length + bs.length := List.length_append
  have hok : (s.append bs).AnswersOk ((s.append bs).fifo.length / 64) := hlen ▸ h.answers
  rw [drain_eq_sent hok, hlen, State.fed]

/-! ### Command sequences -/

theorem runCommands_singleton (i : Instr) (s : State) : runCommands [i] s = exec i s := by
  rw [runCommands]
  cases exec i s <;> rfl

/-- A sequence whose front part gives `t` goes on from `t`. -/
theorem runCommands_append {cs ds : List Instr} (h : runCommands cs s = .next t) :
    runCommands (cs ++ ds) s = runCommands ds t := by
  induction cs generalizing s with
  | nil => cases h; rfl
  | cons i cs ih =>
    rw [List.cons_append, runCommands]
    rw [runCommands] at h
    cases hi : exec i s with
    | next u => rw [hi] at h; exact ih h
    | fault r => rw [hi] at h; cases h
    | refused r => rw [hi] at h; cases h

theorem runCommands_cons {i : Instr} {cs : List Instr} (h : exec i s = .next t) :
    runCommands (i :: cs) s = runCommands cs t :=
  runCommands_append (cs := [i]) ((runCommands_singleton i s).trans h)

/-! ### `BYTES` and `FLUSH` -/

theorem exec_byte (d : Byte) (h : s.Takes 1) : exec (.byte d) s = .next (s.fed [d]) :=
  exec_of_effect_eq h.running ((byteEffect_open h.session).trans (drain_append h))

/-- `BYTES buf` feeds the framer its bytes. -/
theorem runCommands_bytes (buf : List Byte) (h : s.Takes buf.length) :
    runCommands (bytesCommands buf) s = .next (s.fed buf) := by
  induction buf generalizing s with
  | nil => rw [fed_nil h.short]; rfl
  | cons d buf ih =>
    have hlen : (d :: buf).length = [d].length + buf.length := by simp [Nat.add_comm]
    rw [bytesCommands, List.map_cons, runCommands_cons (exec_byte d (h.mono (by simp)))]
    exact (ih (hlen ▸ h).fed).trans (congrArg _ (fed_fed [d] buf s))

/-- All packets of a buffer have gone out, the last one short or full, each answered `ok`. -/
def State.sentAll (buf : List Byte) (s : State) : State :=
  { s with
    out := s.out ++ sentPackets (chunk buf)
    wptr := s.wptr.map (· + buf.length)
    sess := if buf = [] then s.sess else .streaming
    txAnswers := s.txAnswers.drop ((buf.length + 63) / 64) }

/-- With an empty accumulator and an `ok` for each packet of a buffer, the block takes the buffer. -/
theorem takes_of_empty (hs : s.running) (hc : s.sess ≠ .closed) (he : s.fifo = [])
    (hok : s.AnswersOk ((buf.length + 63) / 64)) : s.Takes buf.length where
  running := hs
  session := hc
  short := by rw [he]; exact Nat.zero_le _
  answers := hok.mono (Nat.div_le_div_right (by rw [he, List.length_nil]; omega))

/-- A buffer of whole packets has all gone out before `FLUSH`. -/
theorem fed_eq_sentAll (he : s.fifo = []) (hdvd : 64 ∣ buf.length) : s.fed buf = s.sentAll buf := by
  have hfull : 64 * (buf.length / 64) = buf.length := Nat.mul_div_cancel' hdvd
  have hcount : (buf.length + 63) / 64 = buf.length / 64 := by omega
  have hempty : buf.length / 64 = 0 ↔ buf = [] := by rw [← List.length_eq_zero_iff]; omega
  rw [State.fed, he, List.length_nil, Nat.zero_add, State.sentAll, hcount]
  simp [State.sent, State.append, he, hfull, hempty]

/-- `FLUSH` sends what waits of a buffer as one final packet. -/
theorem sentAll_of_remainder {n : Nat} (he : s.fifo = []) (hn : n = buf.length / 64) (hrest : buf.drop (64 * n) ≠ []) :
    s.sentAll buf = { s.fed buf with
      txAnswers := (s.fed buf).txAnswers.tail
      out := (s.fed buf).out ++ [(.bulk 0x01 (buf.drop (64 * n)), .ok)]
      wptr := (s.fed buf).wptr.map (· + (buf.drop (64 * n)).length)
      sess := .streaming
      fifo := [] } := by
  have hpos : 64 * n < buf.length := by simpa using hrest
  have hcount : (buf.length + 63) / 64 = n + 1 := by omega
  have hne : buf ≠ [] := List.length_pos_iff.mp (by omega)
  have hchunk : chunk buf = chunk (buf.take (64 * n)) ++ [buf.drop (64 * n)] := by
    rw [← chunk_single hrest (by rw [List.length_drop]; omega), ← chunk_append, List.take_append_drop]
    rw [List.length_take_of_le hpos.le]
    exact dvd_mul_right 64 n
  have hwptr : (s.wptr.map (· + 64 * n)).map (· + (buf.drop (64 * n)).length) = s.wptr.map (· + buf.length) := by
    rw [List.length_drop, Option.map_map]
    congr 1
    funext p
    simp only [Function.comp_apply]
    omega
  rw [State.sentAll, hcount, hchunk, if_neg hne, ← hwptr, sentPackets_append, ← List.append_assoc, ← List.tail_drop,
    State.fed, he, List.length_nil, Nat.zero_add, ← hn]
  simp [State.sent, State.append, he, sentPackets, Config.epBulkOut]

theorem exec_flush_fed (hs : s.running) (hc : s.sess ≠ .closed) (he : s.fifo = [])
    (hok : s.AnswersOk ((buf.length + 63) / 64)) : exec .flush (s.fed buf) = .next (s.sentAll buf) := by
  have htakes : (s.fed buf).Takes 0 := (takes_of_empty hs hc he hok).fed
  have hfifo : (s.fed buf).fifo = buf.drop (64 * (buf.length / 64)) := by
    simp [State.fed, State.sent, he]
  apply exec_of_effect_eq htakes.running
  by_cases hrest : buf.drop (64 * (buf.length / 64)) = []
  · have hdvd : 64 ∣ buf.length := by
      rw [List.drop_eq_nil_iff] at hrest
      omega
    exact (flushEffect_empty htakes.session (hfifo.trans hrest)).trans (fed_eq_sentAll he hdvd)
  · have hpos : 64 * (buf.length / 64) < buf.length := by simpa using hrest
    have hone : (s.fed buf).AnswersOk 1 := by
      refine answersOk_drop (s := s) (m := buf.length / 64) (hok.mono (by omega)) ?_
      simp [State.fed, State.sent, he]
    have hne : (s.fed buf).fifo ≠ [] := hfifo ▸ hrest
    refine (flushEffect_ok htakes.session hne (txOutcome_of_answersOk hone Nat.one_pos)).trans ?_
    rw [hfifo, sentAll_of_remainder he rfl hrest]

/-- Settles O53: the bytes are fed, then flushed. -/
theorem bytesThenFlushSendBuffer : Obligations.BytesThenFlushSendBuffer := by
  unfold Obligations.BytesThenFlushSendBuffer
  intro buf s rest hhung hfault hc he hans
  have hok : s.AnswersOk ((buf.length + 63) / 64) := answersOk_of_eq hans
  have hs : s.running := ⟨hhung, hfault⟩
  rw [runCommands_append (runCommands_bytes buf (takes_of_empty hs hc he hok)), runCommands_singleton,
    exec_flush_fed hs hc he hok, State.sentAll, drop_answers_of_eq hans]

end Sys2Proof.Machine
end

section
/-! The pixel commands of an image (40_encoder.md section 6), and the two disciplines for sending images (42_control.md section
5): every pixel assembles and feeds the framer, so a row feeds its wire bytes, and a frame its rows. -/

namespace Sys2Proof.Machine

variable {s t u : State} {px : Pixel} {row : List Pixel} {bits : List Bit} {img : Image} {x y w h : Nat}

/-! ### The encoder's registers -/

/-- The raster position and the Word under assembly are written. -/
def State.enc (rx ry : Half) (acc : Word) (s : State) : State := { s with rx := rx, ry := ry, acc := acc }

/-- The framer does not look at the encoder's registers. -/
theorem fed_enc (bs : List Byte) (rx ry : Half) (acc : Word) (s : State) :
    (s.enc rx ry acc).fed bs = (s.fed bs).enc rx ry acc := rfl

theorem enc_self {rx ry : Half} {acc : Word} (hrx : s.rx = rx) (hry : s.ry = ry) (hacc : s.acc = acc) :
    s.enc rx ry acc = s := by
  subst hrx hry hacc
  rfl

theorem State.Takes.enc {k : Nat} (h : s.Takes k) (rx ry : Half) (acc : Word) : (s.enc rx ry acc).Takes k :=
  ⟨h.running, h.session, h.short, h.answers⟩

/-! ### One pixel -/

/-- The row of the next pixel, after the last pixel of a row. -/
def State.nextRow (s : State) : Half := if s.ry = s.H - 1 then 0 else s.ry + 1

/-- A pixel that completes its Word feeds the framer the Word's bytes. -/
theorem exec_pixel_completes (hc : s.configured) (hw : s.completesWord) (ht : s.Takes 4) :
    exec px.command s = .next ((s.fed (wordBytes (s.assembled px.bit))).enc
      (if s.lastColumn then 0 else s.rx + 1) (if s.lastColumn then s.nextRow else s.ry) 0) := by
  rw [exec_pixel px ht.running ht.session hc, assemble_advance_of_completes _ hw, ← fed_enc]
  exact congrArg _ (drain_append (bs := wordBytes (s.assembled px.bit)) (ht.enc _ _ 0))

/-- A pixel inside its Word joins it. -/
theorem exec_pixel_continues (hc : s.configured) (hw : ¬ s.completesWord) (ht : s.Takes 0) :
    exec px.command s = .next (s.enc (s.rx + 1) s.ry (s.assembled px.bit)) := by
  rw [exec_pixel px ht.running ht.session hc, assemble_advance_of_continues _ hw]
  exact congrArg _ (drain_short (Nat.lt_succ_of_le ht.short))

/-! ### Words assembled from the left part of a row (R102) -/

/-- The next pixel joins the Word in its lane. -/
theorem asm_take_succ (hx : x < bits.length) :
    asm (bits.take (x + 1)) (x / 32) = asm (bits.take x) (x / 32) ||| pixelMask bits[x] (x % 32) := by
  apply BitVec.eq_of_getLsbD_eq
  intro k hk
  rw [BitVec.getLsbD_or, getLsbD_asm _ _ hk, getLsbD_asm _ _ hk, List.getD_eq_getElem?_getD, List.getD_eq_getElem?_getD,
    List.getElem?_take, List.getElem?_take]
  by_cases hlane : k = x % 32
  · subst hlane
    have hcol : 32 * (x / 32) + x % 32 = x := Nat.div_add_mod x 32
    have hbit : bits[x].getLsbD 0 = (bits[x] == 1) := by
      generalize bits[x] = b
      revert b
      decide
    rw [hcol, pixelMask, BitVec.getLsbD_shiftLeft, Nat.sub_self, BitVec.getLsbD_setWidth, hbit]
    simp [List.getElem?_eq_getElem hx, hk]
  · have hsame : 32 * (x / 32) + k < x + 1 ↔ 32 * (x / 32) + k < x := by omega
    simp [hsame, getLsbD_pixelMask _ _ _ hlane]

/-- Before its first pixel a Word is clear. -/
theorem asm_take_eq_zero {j : Nat} (h : x ≤ 32 * j) : asm (bits.take x) j = 0 := by
  apply BitVec.eq_of_getLsbD_eq
  intro k hk
  rw [getLsbD_asm _ _ hk, List.getD_eq_default _ _ (by rw [List.length_take]; omega)]
  exact BitVec.getLsbD_zero.symm

/-- With its 32nd pixel, or with the row's last, a Word is the row's. -/
theorem asm_take_of_complete {j : Nat} (h : 32 * (j + 1) ≤ x ∨ bits.length ≤ x) :
    asm (bits.take x) j = asm bits j := by
  apply BitVec.eq_of_getLsbD_eq
  intro k hk
  rw [getLsbD_asm _ _ hk, getLsbD_asm _ _ hk, List.getD_eq_getElem?_getD, List.getD_eq_getElem?_getD, List.getElem?_take]
  split
  · rfl
  · next hout => rw [List.getElem?_eq_none (l := bits) (by omega)]

/-! ### The pixels of a row -/

/-- The wire bytes of the first n Words of a row. -/
def words (bits : List Bit) (n : Nat) : List Byte := (List.range n).flatMap fun j => wordBytes (asm bits j)

theorem words_succ (bits : List Bit) (n : Nat) : words bits (n + 1) = words bits n ++ wordBytes (asm bits n) := by
  rw [words, words, List.range_succ, List.flatMap_append, List.flatMap_singleton]

theorem words_length (bits : List Bit) (n : Nat) : (words bits n).length = 4 * n := by
  simp [words, List.length_flatMap, Nat.mul_comm]

/-- After x pixels of a row, x short of the row's width: its whole Words are with the framer, the rest of the pixels are
under assembly. -/
def State.midRow (bits : List Bit) (x : Nat) (s : State) : State :=
  (s.fed (words bits (x / 32))).enc (BitVec.ofNat 16 x) s.ry (asm (bits.take x) (x / 32))

theorem midRow_takes {k : Nat} (ht : s.Takes (4 * (x / 32) + k)) : (s.midRow bits x).Takes k :=
  State.Takes.enc (words_length bits (x / 32) ▸ ht).fed _ _ _

/-- The column of a pixel of a row, as the register holds it. -/
theorem midRow_lane : (s.midRow bits x).lane = x % 32 := by
  simp only [State.lane, State.midRow, State.enc, BitVec.toNat_ofNat, Config.wordBits]
  omega

theorem midRow_lastColumn (hx : x < s.W.toNat) : (s.midRow bits x).lastColumn ↔ x + 1 = s.W.toNat := by
  have hw : s.W.toNat < 2 ^ 16 := s.W.isLt
  change BitVec.ofNat 16 x = s.W - 1 ↔ _
  rw [← BitVec.toNat_inj, BitVec.toNat_ofNat, BitVec.toNat_sub]
  simp only [BitVec.reduceToNat]
  omega

theorem midRow_assembled (hx : x < s.W.toNat) (hlen : bits.length = s.W.toNat) :
    (s.midRow bits x).assembled (bits[x]'(hlen ▸ hx)) = asm (bits.take (x + 1)) (x / 32) := by
  rw [State.assembled, midRow_lane, asm_take_succ]
  rfl

/-- A pixel that is not the last of its row. -/
theorem exec_pixel_midRow (hc : s.configured) (hx : x + 1 < s.W.toNat) (hlen : row.length = s.W.toNat)
    (ht : s.Takes (4 * ((x + 1) / 32))) :
    exec (row[x]'(by omega)).command (s.midRow (row.map Pixel.bit) x) =
      .next (s.midRow (row.map Pixel.bit) (x + 1)) := by
  generalize hu : s.midRow (row.map Pixel.bit) x = u
  have hbits : (row.map Pixel.bit).length = s.W.toNat := by rw [List.length_map, hlen]
  have hassembled : u.assembled (row[x]'(by omega)).bit = asm ((row.map Pixel.bit).take (x + 1)) (x / 32) := by
    rw [← midRow_assembled (by omega) hbits, List.getElem_map, hu]
  have hconf : u.configured := hu ▸ hc
  have hlast : ¬ u.lastColumn := by rw [← hu, midRow_lastColumn (by omega)]; omega
  have hlane : u.lane = x % 32 := hu ▸ midRow_lane
  have hcolumn : u.rx + 1 = BitVec.ofNat 16 (x + 1) := hu ▸ (BitVec.ofNat_add x 1).symm
  by_cases hfull : x % 32 = 31
  · have hnext : (x + 1) / 32 = x / 32 + 1 := by omega
    have htakes : u.Takes 4 := hu ▸ midRow_takes (ht.mono (by omega))
    rw [exec_pixel_completes hconf (.inl (hlane.trans hfull)) htakes, hassembled, asm_take_of_complete (.inl (by omega)),
      if_neg hlast, if_neg hlast, hcolumn, State.midRow, hnext, words_succ, ← fed_fed, asm_take_eq_zero (by omega), ← hu]
    rfl
  · have hnext : (x + 1) / 32 = x / 32 := by omega
    have htakes : u.Takes 0 := hu ▸ midRow_takes (ht.mono (by omega))
    have hgoes : ¬ u.completesWord := not_or.mpr ⟨hlane.trans_ne hfull, hlast⟩
    rw [exec_pixel_continues hconf hgoes htakes, hassembled, hcolumn, State.midRow, hnext, ← hu]
    rfl

/-- The pixels of a row before its last. -/
theorem runCommands_midRow (hc : s.configured) (hrx : s.rx = 0) (hacc : s.acc = 0) (hlen : row.length = s.W.toNat)
    (hx : x < s.W.toNat) (ht : s.Takes (4 * (x / 32))) :
    runCommands ((row.take x).map Pixel.command) s = .next (s.midRow (row.map Pixel.bit) x) := by
  induction x with
  | zero =>
    have hfed : s.fed (words (row.map Pixel.bit) (0 / 32)) = s := fed_nil ht.short
    rw [State.midRow, hfed, asm_take_eq_zero (Nat.zero_le _)]
    exact congrArg _ (enc_self hrx rfl hacc).symm
  | succ x ih =>
    rw [List.take_succ_eq_append_getElem (by omega), List.map_append,
      runCommands_append (ih (by omega) (ht.mono (by omega))), List.map_singleton, runCommands_singleton]
    exact exec_pixel_midRow hc hx hlen ht

/-- The last pixel of a row completes the row's last Word, full or padded. -/
theorem exec_pixel_last (hc : s.configured) (hx : x + 1 = s.W.toNat) (hlen : row.length = s.W.toNat)
    (ht : s.Takes (4 * nb s.W.toNat)) :
    exec (row[x]'(by omega)).command (s.midRow (row.map Pixel.bit) x) =
      .next ((s.fed (encRow (row.map Pixel.bit))).enc 0 s.nextRow 0) := by
  generalize hu : s.midRow (row.map Pixel.bit) x = u
  have hbits : (row.map Pixel.bit).length = s.W.toNat := by rw [List.length_map, hlen]
  have hnb : nb s.W.toNat = x / 32 + 1 := by unfold nb; omega
  have hwords : encRow (row.map Pixel.bit) = words (row.map Pixel.bit) (x / 32 + 1) := by rw [encRow, hbits, hnb, words]
  have hassembled : u.assembled (row[x]'(by omega)).bit = asm (row.map Pixel.bit) (x / 32) := by
    rw [← asm_take_of_complete (x := x + 1) (.inr (by omega)), ← midRow_assembled (by omega) hbits, List.getElem_map, hu]
  have hconf : u.configured := hu ▸ hc
  have hlast : u.lastColumn := hu ▸ (midRow_lastColumn (by omega)).mpr hx
  have htakes : u.Takes 4 := hu ▸ midRow_takes (ht.mono (by omega))
  rw [exec_pixel_completes hconf (.inr hlast) htakes, hassembled, if_pos hlast, if_pos hlast, hwords, words_succ,
    ← fed_fed, ← hu]
  rfl

/-- The pixels of a whole row feed the framer its wire bytes, and the raster goes to the next row. -/
theorem runCommands_row (hc : s.configured) (hrx : s.rx = 0) (hacc : s.acc = 0) (hlen : row.length = s.W.toNat)
    (ht : s.Takes (4 * nb s.W.toNat)) :
    runCommands (row.map Pixel.command) s = .next ((s.fed (encRow (row.map Pixel.bit))).enc 0 s.nextRow 0) := by
  obtain ⟨x, hx⟩ : ∃ x, x + 1 = s.W.toNat := ⟨s.W.toNat - 1, by have hW := hc.1; bv_omega⟩
  have hfront : 4 * (x / 32) ≤ 4 * nb s.W.toNat := by unfold nb; omega
  have hrow : row.take x ++ [row[x]] = row := by
    rw [← List.take_succ_eq_append_getElem (by omega), List.take_of_length_le (by omega)]
  calc runCommands (row.map Pixel.command) s
    _ = runCommands ((row.take x).map Pixel.command ++ [row[x].command]) s := by
      rw [← List.map_singleton, ← List.map_append, hrow]
    _ = exec row[x].command (s.midRow (row.map Pixel.bit) x) := by
      rw [runCommands_append (runCommands_midRow hc hrx hacc hlen (by omega) (ht.mono hfront)), runCommands_singleton]
    _ = .next ((s.fed (encRow (row.map Pixel.bit))).enc 0 s.nextRow 0) := exec_pixel_last hc hx hlen ht

/-! ### The rows of an image -/

theorem encFrame_append (img img' : Image) : encFrame (img ++ img') = encFrame img ++ encFrame img' :=
  List.flatMap_append

theorem encFrame_take_succ (hy : y < img.length) :
    encFrame (img.take (y + 1)) = encFrame (img.take y) ++ encRow (img[y].map Pixel.bit) := by
  rw [List.take_succ_eq_append_getElem hy, encFrame_append, encFrame_cons, encFrame_nil, List.append_nil]

theorem encFrame_take_length (hs : img.isSize w h) (hy : y ≤ h) : (encFrame (img.take y)).length = y * nb w * 4 := by
  obtain ⟨-, -, hlen, hw⟩ := hs
  rw [encFrame_length fun row hrow => hw row (List.mem_of_mem_take hrow), List.length_take_of_le (hlen ▸ hy)]

/-- The row of the next pixel after y rows, as the register holds it. -/
def rowRegister (h y : Nat) : Half := if y = h then 0 else BitVec.ofNat 16 y

theorem nextRow_rowRegister (hy : y < s.H.toNat) (hry : s.ry = rowRegister s.H.toNat y) :
    s.nextRow = rowRegister s.H.toNat (y + 1) := by
  have hH : s.H.toNat < 2 ^ 16 := s.H.isLt
  have hlast : s.ry = s.H - 1 ↔ y + 1 = s.H.toNat := by
    rw [hry, rowRegister, if_neg hy.ne, ← BitVec.toNat_inj, BitVec.toNat_ofNat, BitVec.toNat_sub]
    simp only [BitVec.reduceToNat]
    omega
  rw [State.nextRow, rowRegister]
  simp only [hlast]
  rw [hry, rowRegister, if_neg hy.ne, BitVec.ofNat_add y 1]
  rfl

theorem configured_of_isSize (hs : img.isSize s.W.toNat s.H.toNat) : s.configured := by
  obtain ⟨hW, hH, -, -⟩ := hs
  exact ⟨by bv_omega, by bv_omega⟩

/-- The pixel commands of the first y rows feed the framer their wire bytes. -/
theorem runCommands_rows (hs : img.isSize s.W.toNat s.H.toNat) (hrx : s.rx = 0) (hry : s.ry = 0) (hacc : s.acc = 0)
    (hy : y ≤ s.H.toNat) (ht : s.Takes (encFrame (img.take y)).length) :
    runCommands (frameCommands (img.take y)) s =
      .next ((s.fed (encFrame (img.take y))).enc 0 (rowRegister s.H.toNat y) 0) := by
  induction y with
  | zero =>
    have hzero : rowRegister s.H.toNat 0 = 0 := ite_self _
    rw [List.take_zero, encFrame_nil, fed_nil ht.short, hzero, enc_self hrx hry hacc]
    rfl
  | succ y ih =>
    have himg : y < img.length := hs.length_eq ▸ hy
    have hlen : img[y].length = s.W.toNat := hs.row_length _ (List.getElem_mem himg)
    rw [encFrame_take_succ himg, List.length_append] at ht
    have hrow : (encRow (img[y].map Pixel.bit)).length = 4 * nb s.W.toNat := by
      rw [encRow_length, List.length_map, hlen]
    have hfront := ih (by omega) (ht.mono (by omega))
    generalize hu : (s.fed (encFrame (img.take y))).enc 0 (rowRegister s.H.toNat y) 0 = u at hfront
    have hdim : u.W = s.W ∧ u.H = s.H := by subst hu; exact ⟨rfl, rfl⟩
    have hconf : u.configured := hu ▸ configured_of_isSize hs
    have htakes : u.Takes (4 * nb u.W.toNat) := by subst hu; exact (hrow ▸ ht).fed.enc _ _ _
    have hcommands : frameCommands (img.take (y + 1)) = frameCommands (img.take y) ++ img[y].map Pixel.command := by
      rw [List.take_succ_eq_append_getElem himg, frameCommands, List.flatMap_append, List.flatMap_singleton]
      rfl
    rw [hcommands, runCommands_append hfront, runCommands_row hconf (hu ▸ rfl) (hu ▸ rfl) (hdim.1 ▸ hlen) htakes,
      nextRow_rowRegister (s := u) (hdim.2 ▸ hy) (by subst hu; rfl), hdim.2, encFrame_take_succ himg, ← fed_fed, ← hu]
    rfl

theorem frameCommands_length (hw : ∀ row ∈ img, row.length = w) : (frameCommands img).length = w * img.length := by
  rw [frameCommands, List.length_flatMap, List.map_congr_left (g := fun _ => w) fun row hrow => by
    rw [List.length_map, hw row hrow]]
  simp [Nat.mul_comm]

/-- The first w y pixel commands are those of the first y rows. -/
theorem frameCommands_take (hs : img.isSize w h) (hy : y ≤ h) :
    (frameCommands (img.take y)).length = w * y ∧ frameCommands (img.take y) = (frameCommands img).take (w * y) := by
  obtain ⟨-, -, hlen, hw⟩ := hs
  have hfront : (frameCommands (img.take y)).length = w * y := by
    rw [frameCommands_length fun row hrow => hw row (List.mem_of_mem_take hrow), List.length_take_of_le (hlen ▸ hy)]
  have hsplit : frameCommands img = frameCommands (img.take y) ++ frameCommands (img.drop y) := by
    rw [frameCommands, frameCommands, frameCommands, ← List.flatMap_append, List.take_append_drop]
  exact ⟨hfront, by rw [hsplit, List.take_left' hfront]⟩

/-- Settles O51: row by row, pixel by pixel, the framer is fed the wire bytes. -/
theorem frameComputesEncFrame : Obligations.FrameComputesEncFrame := by
  unfold Obligations.FrameComputesEncFrame
  rintro img s y n rest hsize hy hhung hfault hc hrx hry hacc hshort hn hans
  refine ⟨frameCommands_take hsize hy, ?_⟩
  have hcount : n = (s.fifo.length + (encFrame (img.take y)).length) / 64 := by
    rw [encFrame_take_length hsize hy, hn]
  have ht : s.Takes (encFrame (img.take y)).length := ⟨⟨hhung, hfault⟩, hc, hshort, hcount ▸ answersOk_of_eq hans⟩
  have hstart (u : State) (r : Half) : u.enc 0 r 0 = u.enc s.rx r s.acc := by rw [hrx, hacc]
  rw [runCommands_rows hsize hrx hry hacc hy ht, hstart, State.fed, ← hcount, ← drop_answers_of_eq hans]
  rfl

/-! ### One image, and a movie (R156) -/

/-- A frame and `FLUSH`, from frame start with an empty accumulator: all its packets go out, and the block is as before. -/
theorem runCommands_frame_flush (hsize : img.isSize s.W.toNat s.H.toNat) (hs : s.running) (hc : s.sess ≠ .closed)
    (hrx : s.rx = 0) (hry : s.ry = 0) (hacc : s.acc = 0) (he : s.fifo = [])
    (hok : s.AnswersOk (((encFrame img).length + 63) / 64)) :
    runCommands (frameCommands img ++ [.flush]) s = .next (s.sentAll (encFrame img)) := by
  have hall : img.take s.H.toNat = img := List.take_of_length_le hsize.length_eq.le
  have hstart : rowRegister s.H.toNat s.H.toNat = 0 := if_pos rfl
  have hrows := runCommands_rows hsize hrx hry hacc le_rfl (hall.symm ▸ takes_of_empty hs hc he hok)
  rw [hall, hstart, enc_self (s := s.fed (encFrame img)) hrx hry hacc] at hrows
  rw [runCommands_append hrows, runCommands_singleton, exec_flush_fed hs hc he hok]

/-- The packets of a frame: as many bytes as R107 says, at least one Word. -/
theorem encFrame_size (hsize : img.isSize w h) : (encFrame img).length = h * nb w * 4 ∧ encFrame img ≠ [] := by
  obtain ⟨hw, hh, hlen, hrows⟩ := hsize
  have hlength : (encFrame img).length = h * nb w * 4 := by rw [encFrame_length hrows, hlen]
  have hpos : 0 < h * nb w := Nat.mul_pos hh (lt_nb_iff.mpr hw)
  exact ⟨hlength, List.length_pos_iff.mp (by omega)⟩

/-- `RESET_WRITEPTR` that the device takes. -/
def State.pointerReset (s : State) : State :=
  { s with
    txAnswers := s.txAnswers.tail
    out := s.out ++ [(.ctrl 0x40 0x00 0x0000 0x0000, .ok)]
    wptr := some 0
    sess := .reset }

theorem exec_resetWriteptr_ok (hs : s.running) (hc : s.sess ≠ .closed) (hok : s.AnswersOk 1) :
    exec .resetWriteptr s = .next s.pointerReset :=
  exec_of_effect_eq hs (controlTransfer_ok hc (txOutcome_of_answersOk hok Nat.one_pos))

theorem pointerReset_answersOk {n : Nat} (hok : s.AnswersOk (1 + n)) : s.pointerReset.AnswersOk n :=
  answersOk_drop hok List.drop_one.symm

/-- What a reset and then packets answered `ok` put on the device: the packets' bytes from offset 0 on. -/
theorem deviceWrites_reset (p : Option Nat) (packets : List (List Byte)) :
    deviceWrites p ((.ctrl 0x40 0x00 0x0000 0x0000, .ok) :: sentPackets packets) =
      packets.flatten.mapIdx fun i b => (some i, b) := by
  have hskip : deviceWrites p ((.ctrl 0x40 0x00 0x0000 0x0000, .ok) :: sentPackets packets) =
      deviceWrites (some 0) (sentPackets packets) := rfl
  rw [hskip, deviceWrites_sentPackets]
  simp only [Nat.zero_add]

/-- Settles O54: the reset, then the frame flushed. -/
theorem sendImageDeliversFrameAtZero : Obligations.SendImageDeliversFrameAtZero := by
  unfold Obligations.SendImageDeliversFrameAtZero
  rintro img s rest reset hsize hhung hfault hc hrx hry hacc he hans rfl
  have hs : s.running := ⟨hhung, hfault⟩
  have hok := answersOk_of_eq hans
  obtain ⟨hlength, hne⟩ := encFrame_size hsize
  have hframe := runCommands_frame_flush (s := s.pointerReset) hsize hs nofun hrx hry hacc he
    (pointerReset_answersOk hok)
  have hrest : s.pointerReset.txAnswers.drop (((encFrame img).length + 63) / 64) = rest := by
    rw [State.pointerReset, ← List.drop_one, List.drop_drop, drop_answers_of_eq hans]
  refine ⟨?run, ?device⟩
  case run =>
    rw [sendImageCommands, runCommands_cons (exec_resetWriteptr_ok hs hc (hok.mono (by omega))), hframe, State.sentAll,
      hrest, if_neg hne, hlength]
    simp [State.pointerReset]
  case device => rw [deviceWrites_reset, chunk_flatten]

/-- All packets of a movie's frames have gone out, each answered `ok`. -/
def State.sentFrames (frames : List Image) (len : Nat) (s : State) : State :=
  { s with
    out := s.out ++ frames.flatMap fun img => sentPackets (chunk (encFrame img))
    wptr := s.wptr.map (· + frames.length * len)
    sess := if frames = [] then s.sess else .streaming
    txAnswers := s.txAnswers.drop (frames.length * ((len + 63) / 64)) }

/-- A first frame's packets, then those of the others. -/
theorem sentFrames_sentAll {img : Image} {frames : List Image} {len : Nat} (hlen : (encFrame img).length = len)
    (hne : encFrame img ≠ []) : (s.sentAll (encFrame img)).sentFrames frames len = s.sentFrames (img :: frames) len := by
  have hwptr : (s.wptr.map (· + len)).map (· + frames.length * len) = s.wptr.map (· + (img :: frames).length * len) := by
    cases s.wptr with
    | none => rfl
    | some p => exact congrArg some (by rw [List.length_cons]; ring)
  have hanswers : (s.txAnswers.drop ((len + 63) / 64)).drop (frames.length * ((len + 63) / 64)) =
      s.txAnswers.drop ((img :: frames).length * ((len + 63) / 64)) := by
    rw [List.drop_drop, List.length_cons, Nat.succ_mul, Nat.add_comm]
  simp only [State.sentFrames, State.sentAll, hlen, hwptr, hanswers, List.flatMap_cons, List.append_assoc, if_neg hne,
    ite_self, List.cons_ne_nil, if_false]

/-- Frames flushed one after another, each from frame start with an empty accumulator. -/
theorem runCommands_frames {frames : List Image} {len : Nat}
    (hsize : ∀ img ∈ frames, img.isSize s.W.toNat s.H.toNat) (hlen : len = s.H.toNat * nb s.W.toNat * 4)
    (hs : s.running) (hc : s.sess ≠ .closed) (hrx : s.rx = 0) (hry : s.ry = 0) (hacc : s.acc = 0) (he : s.fifo = [])
    (hok : s.AnswersOk (frames.length * ((len + 63) / 64))) :
    runCommands (frames.flatMap fun img => frameCommands img ++ [.flush]) s = .next (s.sentFrames frames len) := by
  induction frames generalizing s with
  | nil => cases s; simp [State.sentFrames, runCommands]
  | cons img frames ih =>
    obtain ⟨himg, hframes⟩ := List.forall_mem_cons.mp hsize
    obtain ⟨hlength, hne⟩ := encFrame_size himg
    rw [← hlen] at hlength
    rw [List.length_cons, Nat.succ_mul, Nat.add_comm] at hok
    have hfirst := runCommands_frame_flush himg hs hc hrx hry hacc he (hlength.symm ▸ hok.mono (Nat.le_add_right _ _))
    have hsess : (s.sentAll (encFrame img)).sess = .streaming := if_neg hne
    have hok' : (s.sentAll (encFrame img)).AnswersOk (frames.length * ((len + 63) / 64)) :=
      answersOk_drop hok (by rw [State.sentAll, hlength])
    rw [List.flatMap_cons, runCommands_append hfirst,
      ih (s := s.sentAll (encFrame img)) hframes hlen hs (hsess.trans_ne nofun) hrx hry hacc he hok',
      sentFrames_sentAll hlength hne]

/-- The packets of a movie's frames, as one sequence of packets. -/
theorem flatMap_sentPackets (frames : List Image) :
    (frames.flatMap fun img => sentPackets (chunk (encFrame img))) =
      sentPackets (frames.flatMap fun img => chunk (encFrame img)) := List.map_flatMap.symm

/-- Those packets hold the frames' bytes in their order. -/
theorem flatten_flatMap_chunk (frames : List Image) :
    (frames.flatMap fun img => chunk (encFrame img)).flatten = frames.flatMap encFrame := by
  induction frames with
  | nil => rfl
  | cons img frames ih => rw [List.flatMap_cons, List.flatten_append, chunk_flatten, ih, List.flatMap_cons]

/-- Block k of numbered bytes. -/
theorem mapIdx_flatMap_block {frames : List Image} {len k : Nat} (hlen : ∀ img ∈ frames, (encFrame img).length = len)
    (hk : frames[k]? = some img) :
    (((frames.flatMap encFrame).mapIdx fun i b => (some i, b)).drop (k * len)).take len =
      (encFrame img).mapIdx fun i b => (some (k * len + i), b) := by
  have himg : (encFrame img).length = len := hlen img (List.mem_of_getElem? hk)
  refine List.ext_getElem? fun j => ?_
  rw [List.getElem?_take, List.getElem?_mapIdx]
  split
  · next hj =>
    rw [List.getElem?_drop, List.getElem?_mapIdx, getElem?_flatMap_of_length hlen k hj, hk]
    rfl
  · next hj => rw [List.getElem?_eq_none (by omega)]; rfl

/-- Settles O55: the reset, then frame after frame. -/
theorem playMovieFramesFollowOn : Obligations.PlayMovieFramesFollowOn := by
  unfold Obligations.PlayMovieFramesFollowOn
  rintro frames s rest len sent hsize hhung hfault hc hrx hry hacc he hlen hans rfl
  have hs : s.running := ⟨hhung, hfault⟩
  have hok := answersOk_of_eq hans
  have hlength (img : Image) (himg : img ∈ frames) : (encFrame img).length = len :=
    (encFrame_size (hsize img himg)).1.trans hlen.symm
  have hframes := runCommands_frames (s := s.pointerReset) hsize hlen hs nofun hrx hry hacc he
    (pointerReset_answersOk hok)
  have hrest : s.pointerReset.txAnswers.drop (frames.length * ((len + 63) / 64)) = rest := by
    rw [State.pointerReset, ← List.drop_one, List.drop_drop, drop_answers_of_eq hans]
  rw [flatMap_sentPackets, deviceWrites_reset, flatten_flatMap_chunk]
  refine ⟨?run, ?total, fun k img hk => mapIdx_flatMap_block hlength hk⟩
  case run =>
    rw [playMovieCommands, runCommands_cons (exec_resetWriteptr_ok hs hc (hok.mono (by omega))), hframes,
      State.sentFrames, hrest, flatMap_sentPackets]
    simp [State.pointerReset]
  case total =>
    rw [List.length_mapIdx, List.length_flatMap, List.map_congr_left hlength, List.map_const', List.sum_replicate,
      smul_eq_mul]

end Sys2Proof.Machine
end

section
/-! Appending commands from an empty accumulator, then one `FLUSH` (41_framer.md section 4): while nothing fails or stalls,
what has gone out are the full packets of a front part of the bytes appended, and what waits is the rest of them. -/

namespace Sys2Proof.Machine

variable {s t u : State} {i : Instr} {cs : List Instr} {buf bs : List Byte} {out : List Event}

/-! ### A run that ends with no fault and no stall -/

theorem running_of_exec (h : exec i s = .next t) (ht : t.running) : s.running := by
  obtain ⟨-, ⟨-, rfl⟩ | ⟨hs, -⟩⟩ := exec_cases h
  · exact ht
  · exact hs

theorem runCommands_cons_eq_next (h : runCommands (i :: cs) s = .next t) :
    ∃ u, exec i s = .next u ∧ runCommands cs u = .next t := by
  rw [runCommands] at h
  cases hi : exec i s with
  | next u => rw [hi] at h; exact ⟨u, rfl, h⟩
  | fault r => rw [hi] at h; cases h
  | refused r => rw [hi] at h; cases h

theorem running_of_runCommands (h : runCommands cs s = .next t) (ht : t.running) : s.running := by
  induction cs generalizing s with
  | nil => cases h; exact ht
  | cons i cs ih =>
    obtain ⟨u, hi, hu⟩ := runCommands_cons_eq_next h
    exact running_of_exec hi (ih hu)

/-! ### The framer between commands -/

/-- Of the bytes `buf` appended since the history was `out`, a front part has gone out in full packets, each answered
`ok`; the rest, less than a packet, waits. -/
structure Framed (out : List Event) (buf : List Byte) (t : State) : Prop where
  session : t.sess ≠ .closed
  short : t.fifo.length ≤ 63
  split : ∃ a, 64 ∣ a.length ∧ buf = a ++ t.fifo ∧ t.out = out ++ sentPackets (chunk a)

theorem framed_start (hc : s.sess ≠ .closed) (he : s.fifo = []) : Framed s.out [] s where
  session := hc
  short := he ▸ Nat.zero_le _
  split := ⟨[], dvd_zero 64, he.symm, (List.append_nil _).symm⟩

/-- A command with its bytes in the accumulator, before it drains. -/
structure Appended (bs : List Byte) (s u : State) : Prop where
  running : u.running
  session : u.sess = s.sess
  out : u.out = s.out
  fifo : u.fifo = s.fifo ++ bs
  few : bs.length ≤ 4

/-- `Drain` without failure or stall: at most one full packet goes out. -/
theorem Framed.drain (h : Framed out buf s) (hu : Appended bs s u) (hd : (drain u).running) :
    Framed out (buf ++ bs) (drain u) := by
  obtain ⟨a, ha, hbuf, hout⟩ := h.split
  have hshort := h.short
  have hfew := hu.few
  have hlen : u.fifo.length = s.fifo.length + bs.length := by rw [hu.fifo, List.length_append]
  have hall : buf ++ bs = a ++ u.fifo := by rw [hbuf, hu.fifo, List.append_assoc]
  obtain ⟨hl, heq⟩ | ⟨hl, heq | heq | heq⟩ := drain_cases (s := u) (by omega) <;> rw [heq] at hd ⊢
  · exact ⟨hu.session.trans_ne h.session, by omega, a, ha, hall, hu.out.trans hout⟩
  · have hpacket : (u.fifo.take 64).length = 64 := List.length_take_of_le hl
    have hne : u.fifo.take 64 ≠ [] := List.length_pos_iff.mp (by omega)
    have hchunk : chunk (a ++ u.fifo.take 64) = chunk a ++ [u.fifo.take 64] := by
      rw [chunk_append _ _ ha, chunk_single hne hpacket.le]
    refine ⟨nofun, by simp only [List.length_drop]; omega, a ++ u.fifo.take 64, ?_, ?_, ?_⟩
    · rw [List.length_append, hpacket]; exact dvd_add ha (dvd_refl 64)
    · rw [hall, List.append_assoc]; exact congrArg _ (List.take_append_drop 64 u.fifo).symm
    · rw [hchunk, sentPackets_append, ← List.append_assoc, ← hout, ← hu.out]
      rfl
  · simp [State.running, hu.running.2] at hd
  · simp [State.running] at hd

/-! ### The appending commands -/

/-- A pixel that raises nothing puts its Word's bytes, if it completes one, into the accumulator and drains. -/
theorem rasterStep_appended (b : Bit) (hs : s.running) (hc : s.sess ≠ .closed) (ht : (rasterStep b s).running) :
    ∃ u, rasterStep b s = drain u ∧
      Appended (if s.running ∧ s.sess ≠ .closed ∧ s.configured ∧ s.completesWord then wordBytes (s.assembled b) else [])
        s u := by
  by_cases hconf : s.configured
  · have hiff : (s.running ∧ s.sess ≠ .closed ∧ s.configured ∧ s.completesWord) ↔ s.completesWord := by tauto
    refine ⟨(s.assemble b).advance, rasterStep_open hc hconf, ⟨?_, ?_⟩, ?_, ?_, ?_, ?_⟩
    · simpa using hs.1
    · simpa using hs.2
    · simp
    · simp
    · simp only [State.advance_fifo, State.assemble_fifo, hiff]
    · split <;> simp
  · rw [rasterStep_unconfigured hc hconf] at ht
    simp [State.running] at ht

/-- Each appending command that raises nothing puts its bytes into the accumulator and drains. -/
theorem effect_appended (hi : i.isAppending = true) (hs : s.running) (hc : s.sess ≠ .closed)
    (ht : (effect i s).running) : ∃ u, effect i s = drain u ∧ Appended (appendedBytes i s) s u := by
  cases i with
  | openDev | setW | setH | flush | resetWriteptr | panelOnoff | panelBrightness => cases hi
  | pix8 p => exact rasterStep_appended (threshold p) hs hc ht
  | pix1 b => exact rasterStep_appended b hs hc ht
  | byte d =>
    have hbytes : appendedBytes (.byte d) s = [d] := if_pos ⟨hs, hc⟩
    rw [hbytes]
    exact ⟨s.append [d], byteEffect_open hc, hs, rfl, rfl, rfl, by simp⟩

/-- One appending command of a run without failure or stall. -/
theorem Framed.exec (h : Framed out buf s) (hi : i.isAppending = true) (he : exec i s = .next t) (ht : t.running) :
    Framed out (buf ++ appendedBytes i s) t := by
  have hs : s.running := running_of_exec he ht
  obtain rfl : effect i s = t := by simpa [exec_running i hs] using he
  obtain ⟨u, hdrain, hu⟩ := effect_appended hi hs h.session ht
  rw [hdrain] at ht ⊢
  exact h.drain hu ht

/-- `FLUSH` of a run without failure or stall sends the rest as the last packet. -/
theorem Framed.flush (h : Framed out buf s) (he : Machine.exec .flush s = .next t) (ht : t.running) :
    t.fifo = [] ∧ t.out = out ++ sentPackets (chunk buf) := by
  have hs : s.running := running_of_exec he ht
  obtain rfl : effect .flush s = t := by simpa [exec_running .flush hs] using he
  obtain ⟨a, ha, rfl, hout⟩ := h.split
  by_cases hempty : s.fifo = []
  · have hflush : effect .flush s = s := flushEffect_empty h.session hempty
    rw [hflush, hempty, List.append_nil]
    exact ⟨rfl, hout⟩
  · have hchunk : chunk (a ++ s.fifo) = chunk a ++ [s.fifo] := by
      rw [chunk_append _ _ ha, chunk_single hempty (h.short.trans (by decide))]
    cases ho : s.txOutcome (.bulk 0x01 s.fifo) with
    | ok =>
      have hflush : effect .flush s = _ := flushEffect_ok h.session hempty ho
      rw [hflush, hchunk, sentPackets_append, ← List.append_assoc, ← hout]
      exact ⟨rfl, rfl⟩
    | fail =>
      have hflush : effect .flush s = _ := flushEffect_fail hs.2 h.session hempty ho
      rw [hflush] at ht
      cases ht.2
    | stall =>
      have hflush : effect .flush s = _ := flushEffect_stall h.session hempty ho
      rw [hflush] at ht
      cases ht.1

/-- Appending commands and one `FLUSH`, from any state of the framer between commands. -/
theorem Framed.runCommands (h : Framed out buf s) (hi : ∀ i ∈ cs, i.isAppending = true)
    (hrun : runCommands (cs ++ [.flush]) s = .next t) (ht : t.running) :
    t.fifo = [] ∧ t.out = out ++ sentPackets (chunk (buf ++ appendedByAll cs s)) := by
  induction cs generalizing s buf with
  | nil =>
    rw [List.nil_append, runCommands_singleton] at hrun
    rw [appendedByAll, List.append_nil]
    exact h.flush hrun ht
  | cons i cs ih =>
    obtain ⟨hfirst, hrest⟩ := List.forall_mem_cons.mp hi
    obtain ⟨u, he, hu⟩ := runCommands_cons_eq_next hrun
    have hnext := ih (h.exec hfirst he (running_of_runCommands hu ht)) hrest hu
    rw [appendedByAll, he, ← List.append_assoc]
    exact hnext

/-- Settles O52. -/
theorem appendsThenFlushSendChunks : Obligations.AppendsThenFlushSendChunks := by
  unfold Obligations.AppendsThenFlushSendChunks
  intro cs s t hi _ _ hc he hrun hfault hhung
  simpa using (framed_start hc he).runCommands hi hrun ⟨hhung, hfault⟩

end Sys2Proof.Machine
end
